-- ==== Sys2Proof/Word.lean ====
section
/-! DEFINITION. The word types of the machine: every value is an unsigned integer of a stated width
(spec 00_scope.md R8, R9). -/

namespace Sys2Proof

/-- An 8-bit value: a general register, a timer, a byte of memory (00_scope.md R6). -/
abbrev Byte := BitVec 8

/-- A 16-bit value: `pc`, `I`, a stack slot, an instruction word (00_scope.md R6). -/
abbrev Word := BitVec 16

/-- A 12-bit address field `nnn` (30_encoding.md R71). -/
abbrev Addr12 := BitVec 12

/-- A nibble of an instruction word (00_scope.md R13). -/
abbrev Nibble := BitVec 4

/-- A general register's index, 0 to 15: no register index can be out of range (10_state.md R21). -/
abbrev Reg := Fin 16

/-- A key's index, 0 to 15 (10_state.md R31). -/
abbrev Key := Fin 16

/-- A framebuffer column, 0 to 63 (10_state.md R33). -/
abbrev Col := Fin 64

/-- A framebuffer row, 0 to 31 (10_state.md R33). -/
abbrev Row := Fin 32

/-- `VF`, the register that doubles as the flag output (10_state.md R22). -/
abbrev VF : Reg := 15

end Sys2Proof
end

