-- ==== Sys2Proof/Config.lean ====
section
/-! DEFINITION. The parameters of the hardware (spec 00_scope.md R6). The ones with a value are named constants;
the ones the spec marks OPEN are constants without a body, so that no proof can lean on a value of them. -/

namespace Sys2Proof.Config

/-- Bytes of memory (00_scope.md R6 `MEM_SIZE`). -/
abbrev memSize : Nat := 4096

/-- Where programs are loaded and where `pc` starts (00_scope.md R6 `PROG_BASE`). -/
abbrev progBase : Nat := 0x200

/-- Where the built-in font lies (00_scope.md R6 `FONT_BASE`). -/
abbrev fontBase : Nat := 0x050

/-- Bytes of one glyph (00_scope.md R6 `GLYPH_BYTES`). -/
abbrev glyphBytes : Nat := 5

/-- Bytes of the font, 16 glyphs of 5 (00_scope.md R6 `FONT_BYTES`). -/
abbrev fontBytes : Nat := 80

/-- Return addresses the stack holds (00_scope.md R6 `STACK_SLOTS`). -/
abbrev stackSlots : Nat := 16

/-- Keys of the keypad (00_scope.md R6 `NKEYS`). -/
abbrev nKeys : Nat := 16

/-- Columns of the framebuffer (00_scope.md R6 `FB_W`). -/
abbrev fbWidth : Nat := 64

/-- Rows of the framebuffer (00_scope.md R6 `FB_H`). -/
abbrev fbHeight : Nat := 32

/-- `FONT`: byte `k` of the built-in font, `k` below 80. OPEN in the spec (00_scope.md R6, 92_eei_decisions.md D13):
a free value, the same for every run. DESIGN CHOICE (log entry 1): safe. -/
opaque font : Nat → Byte

/-- The byte the `k`-th execution of RND draws: `Rand()` of 00_scope.md R11, a draw under no law
(92_eei_decisions.md D17). A free value. DESIGN CHOICE (log entry 2): safe. -/
opaque randByte : Nat → Byte

/-- `STEP_HZ`, how often per second the host calls `step`: OPEN and read by no rule (00_scope.md R6,
92_eei_decisions.md D18; log entry 8). -/
opaque stepHz : Nat

/-- `TIMER_HZ`, how often per second the host calls `tick_timers`: OPEN and read by no rule (00_scope.md R6,
92_eei_decisions.md D18; log entry 8). -/
opaque timerHz : Nat

/-- The font table the spec offers as the default of `FONT` (93_implementation_defined.md U12). The machine does not
use it: a claim about glyph shapes names it as a premise, as 92_eei_decisions.md D13 asks, or loads it with
`load_font`. -/
def classicFont : List Byte :=
  [0xF0, 0x90, 0x90, 0x90, 0xF0, 0x20, 0x60, 0x20, 0x20, 0x70, 0xF0, 0x10, 0xF0, 0x80, 0xF0, 0xF0, 0x10, 0xF0, 0x10, 0xF0] ++
  [0x90, 0x90, 0xF0, 0x10, 0x10, 0xF0, 0x80, 0xF0, 0x10, 0xF0, 0xF0, 0x80, 0xF0, 0x90, 0xF0, 0xF0, 0x10, 0x20, 0x40, 0x40] ++
  [0xF0, 0x90, 0xF0, 0x90, 0xF0, 0xF0, 0x90, 0xF0, 0x10, 0xF0, 0xF0, 0x90, 0xF0, 0x90, 0x90, 0xE0, 0x90, 0xE0, 0x90, 0xE0] ++
  [0xF0, 0x80, 0x80, 0x80, 0xF0, 0xE0, 0x90, 0x90, 0x90, 0xE0, 0xF0, 0x80, 0xF0, 0x80, 0xF0, 0xF0, 0x80, 0xF0, 0x80, 0x80]

end Sys2Proof.Config
end

