-- ==== Sys2Proof/Syntax.lean ====
section
/-! DEFINITION. The instructions: one constructor per row of spec/opcode_table.json (30_encoding.md R79), with the
fields of 30_encoding.md R71 that the row's pattern names, in the order of the pattern. -/

namespace Sys2Proof

/-- The 34 instructions (30_encoding.md R79), in the table's order. `x` and `y` are register indices, `nn` an 8-bit
immediate, `nnn` a 12-bit address, `n` DRW's row count. In `stm` and `ldm` the field `x` names the last register
(42_memory_bcd.md R145, R146). In `shr` and `shl` the field `y` is encoded and ignored (30_encoding.md R82). -/
inductive Instr where
  | cls
  | ret
  | jp (nnn : Addr12)
  | call (nnn : Addr12)
  | sei (x : Reg) (nn : Byte)
  | snei (x : Reg) (nn : Byte)
  | ser (x y : Reg)
  | ldi (x : Reg) (nn : Byte)
  | addi (x : Reg) (nn : Byte)
  | mov (x y : Reg)
  | or (x y : Reg)
  | and (x y : Reg)
  | xor (x y : Reg)
  | add (x y : Reg)
  | sub (x y : Reg)
  | shr (x y : Reg)
  | subn (x y : Reg)
  | shl (x y : Reg)
  | sner (x y : Reg)
  | ldx (nnn : Addr12)
  | jpv0 (nnn : Addr12)
  | rnd (x : Reg) (nn : Byte)
  | drw (x y : Reg) (n : Nat)
  | skp (x : Reg)
  | sknp (x : Reg)
  | lddt (x : Reg)
  | waitk (x : Reg)
  | stdt (x : Reg)
  | stst (x : Reg)
  | addx (x : Reg)
  | font (x : Reg)
  | bcd (x : Reg)
  | stm (x : Reg)
  | ldm (x : Reg)
  deriving DecidableEq, Repr

/-- What the decoder answers: an instruction with its fields, or the verdict *unknown* with the whole word, which is
the payload of the fault `UnknownOpcode(w)` (30_encoding.md R81, R83). -/
inductive Verdict where
  | instr (i : Instr)
  | unknown (w : Word)
  deriving DecidableEq, Repr

/-- One row of the opcode map: `w` is the instruction if and only if `w AND mask = pattern` (30_encoding.md R79, whose
column `match` is `pattern` here). -/
structure OpcodeRow where
  mnemonic : String
  mask : Word
  pattern : Word
  deriving DecidableEq, Repr

end Sys2Proof
end

