-- ==== Sys2Proof/WellFormed.lean ====
section
/-! DEFINITION. Well-formed instructions. Every operand's type is exactly as wide as its field (30_encoding.md R71:
`x` and `y` are `Fin 16`, `nn` 8 bits, `nnn` 12 bits), so that nothing about them is left to check; the one operand
whose type admits more than its 4-bit field is DRW's row count, a natural number. -/

namespace Sys2Proof

/-- DRW's row count fits the 4-bit field `n`: 0 to 15 (30_encoding.md R71, R73). -/
def Instr.rowCountFits (n : Nat) : Bool := n < 16

/-- The instruction has an encoding (30_encoding.md R71, R79). -/
def Instr.wellFormed : Instr → Bool
  | .drw _ _ n => Instr.rowCountFits n
  | .cls | .ret | .jp _ | .call _ | .sei _ _ | .snei _ _ | .ser _ _ | .ldi _ _ | .addi _ _ | .mov _ _ | .or _ _
  | .and _ _ | .xor _ _ | .add _ _ | .sub _ _ | .shr _ _ | .subn _ _ | .shl _ _ | .sner _ _ | .ldx _ | .jpv0 _
  | .rnd _ _ | .skp _ | .sknp _ | .lddt _ | .waitk _ | .stdt _ | .stst _ | .addx _ | .font _ | .bcd _ | .stm _
  | .ldm _ => true

end Sys2Proof
end

