-- ==== Sys2Proof/Decode.lean ====
section
/-! DEFINITION. The decoder and the encoder (spec 30_encoding.md). The decoder is total on every 16-bit word, hence on
every pair of bytes, and depends on the word alone (R83). -/

namespace Sys2Proof

/-- `family`, bits 15:12, the first dispatch key (30_encoding.md R71). -/
def family (w : Word) : Nibble := w.extractLsb' 12 4

/-- `x`, bits 11:8, the first register operand (30_encoding.md R71). -/
def fieldX (w : Word) : Nibble := w.extractLsb' 8 4

/-- `y`, bits 7:4, the second register operand (30_encoding.md R71). -/
def fieldY (w : Word) : Nibble := w.extractLsb' 4 4

/-- `n`, bits 3:0 (30_encoding.md R71). -/
def fieldN (w : Word) : Nibble := w.extractLsb' 0 4

/-- `nn`, bits 7:0 (30_encoding.md R71). -/
def fieldNN (w : Word) : Byte := w.extractLsb' 0 8

/-- `nnn`, bits 11:0 (30_encoding.md R71). -/
def fieldNNN (w : Word) : Addr12 := w.extractLsb' 0 12

/-- The register a 4-bit field selects (10_state.md R21). -/
def regOf (f : Nibble) : Reg := f.toFin

/-- The word of two bytes, the first (lower address) in bits 15:8 (20_memory.md R53). -/
def wordOf (hi lo : Byte) : Word := hi ++ lo

/-- Family 0: two instructions, matched as whole words (30_encoding.md R75). -/
def decode0 (w : Word) : Verdict :=
  if w = 0x00E0#16 then .instr .cls
  else if w = 0x00EE#16 then .instr .ret
  else .unknown w

/-- Families 5 and 9: the low nibble is a fixed 0 (30_encoding.md R80). -/
def decodeLow0 (i : Reg → Reg → Instr) (w : Word) : Verdict :=
  if fieldN w = 0x0#4 then .instr (i (regOf (fieldX w)) (regOf (fieldY w))) else .unknown w

/-- Family 8: the secondary key is `n` (30_encoding.md R76). -/
def decode8 (w : Word) : Verdict :=
  let x := regOf (fieldX w)
  let y := regOf (fieldY w)
  match fieldN w with
  | 0x0#4 => .instr (.mov x y)
  | 0x1#4 => .instr (.or x y)
  | 0x2#4 => .instr (.and x y)
  | 0x3#4 => .instr (.xor x y)
  | 0x4#4 => .instr (.add x y)
  | 0x5#4 => .instr (.sub x y)
  | 0x6#4 => .instr (.shr x y)
  | 0x7#4 => .instr (.subn x y)
  | 0xE#4 => .instr (.shl x y)
  | _ => .unknown w

/-- Family E: the secondary key is `nn` (30_encoding.md R77). -/
def decodeE (w : Word) : Verdict :=
  match fieldNN w with
  | 0x9E#8 => .instr (.skp (regOf (fieldX w)))
  | 0xA1#8 => .instr (.sknp (regOf (fieldX w)))
  | _ => .unknown w

/-- Family F: the secondary key is `nn` (30_encoding.md R78). -/
def decodeF (w : Word) : Verdict :=
  let x := regOf (fieldX w)
  match fieldNN w with
  | 0x07#8 => .instr (.lddt x)
  | 0x0A#8 => .instr (.waitk x)
  | 0x15#8 => .instr (.stdt x)
  | 0x18#8 => .instr (.stst x)
  | 0x1E#8 => .instr (.addx x)
  | 0x29#8 => .instr (.font x)
  | 0x33#8 => .instr (.bcd x)
  | 0x55#8 => .instr (.stm x)
  | 0x65#8 => .instr (.ldm x)
  | _ => .unknown w

/-- The decoder: a 16-way dispatch on the family, with a second key in families 0, 5, 8, 9, E and F
(30_encoding.md R74 to R80). The last arm is family F: sixteen families, sixteen arms. -/
def decode (w : Word) : Verdict :=
  match family w with
  | 0x0#4 => decode0 w
  | 0x1#4 => .instr (.jp (fieldNNN w))
  | 0x2#4 => .instr (.call (fieldNNN w))
  | 0x3#4 => .instr (.sei (regOf (fieldX w)) (fieldNN w))
  | 0x4#4 => .instr (.snei (regOf (fieldX w)) (fieldNN w))
  | 0x5#4 => decodeLow0 .ser w
  | 0x6#4 => .instr (.ldi (regOf (fieldX w)) (fieldNN w))
  | 0x7#4 => .instr (.addi (regOf (fieldX w)) (fieldNN w))
  | 0x8#4 => decode8 w
  | 0x9#4 => decodeLow0 .sner w
  | 0xA#4 => .instr (.ldx (fieldNNN w))
  | 0xB#4 => .instr (.jpv0 (fieldNNN w))
  | 0xC#4 => .instr (.rnd (regOf (fieldX w)) (fieldNN w))
  | 0xD#4 => .instr (.drw (regOf (fieldX w)) (regOf (fieldY w)) (fieldN w).toNat)
  | 0xE#4 => decodeE w
  | _ => decodeF w

/-- The decoder on the two bytes of an instruction as memory holds them, the family's byte first
(20_memory.md R53). -/
def decodeBytes (hi lo : Byte) : Verdict := decode (wordOf hi lo)

/-- The instruction the decoder reads from an instruction whose bits are `w`, numbered as spec/opcode_table.json
numbers them: every row has one 16-bit word, so bit 0 is the least significant bit of that word. The word is laid out
as the hardware stores it, high byte first, and given to the decoder (20_memory.md R53). -/
def decodeTableWord (nbits w : Nat) : Option Instr :=
  let word : Word := BitVec.ofNat 16 (w % 2 ^ nbits)
  match decodeBytes (word.extractLsb' 8 8) (word.extractLsb' 0 8) with
  | .instr i => some i
  | .unknown _ => none

/-! ### The encoder (30_encoding.md R72, R79) -/

/-- The 4-bit field of a register index. -/
def regField (r : Reg) : Nibble := BitVec.ofFin r

/-- Format A: family, `nnn` (30_encoding.md R72). -/
def formatA (f : Nibble) (nnn : Addr12) : Word := f ++ nnn

/-- Format I: family, `x`, `nn`; and format S, whose `nn` is fixed (30_encoding.md R72). -/
def formatI (f : Nibble) (x : Reg) (nn : Byte) : Word := f ++ regField x ++ nn

/-- Format R: family, `x`, `y`, fixed `n`; and format D, whose `n` is an operand (30_encoding.md R72). -/
def formatR (f : Nibble) (x y : Reg) (n : Nibble) : Word := f ++ regField x ++ regField y ++ n

/-- The word of an instruction (30_encoding.md R79). The word of a DRW whose row count does not fit its field keeps
the low four bits of the count; such an instruction is not well formed. -/
def encode : Instr → Word
  | .cls => 0x00E0#16
  | .ret => 0x00EE#16
  | .jp nnn => formatA 0x1#4 nnn
  | .call nnn => formatA 0x2#4 nnn
  | .sei x nn => formatI 0x3#4 x nn
  | .snei x nn => formatI 0x4#4 x nn
  | .ser x y => formatR 0x5#4 x y 0x0#4
  | .ldi x nn => formatI 0x6#4 x nn
  | .addi x nn => formatI 0x7#4 x nn
  | .mov x y => formatR 0x8#4 x y 0x0#4
  | .or x y => formatR 0x8#4 x y 0x1#4
  | .and x y => formatR 0x8#4 x y 0x2#4
  | .xor x y => formatR 0x8#4 x y 0x3#4
  | .add x y => formatR 0x8#4 x y 0x4#4
  | .sub x y => formatR 0x8#4 x y 0x5#4
  | .shr x y => formatR 0x8#4 x y 0x6#4
  | .subn x y => formatR 0x8#4 x y 0x7#4
  | .shl x y => formatR 0x8#4 x y 0xE#4
  | .sner x y => formatR 0x9#4 x y 0x0#4
  | .ldx nnn => formatA 0xA#4 nnn
  | .jpv0 nnn => formatA 0xB#4 nnn
  | .rnd x nn => formatI 0xC#4 x nn
  | .drw x y n => formatR 0xD#4 x y (BitVec.ofNat 4 n)
  | .skp x => formatI 0xE#4 x 0x9E#8
  | .sknp x => formatI 0xE#4 x 0xA1#8
  | .lddt x => formatI 0xF#4 x 0x07#8
  | .waitk x => formatI 0xF#4 x 0x0A#8
  | .stdt x => formatI 0xF#4 x 0x15#8
  | .stst x => formatI 0xF#4 x 0x18#8
  | .addx x => formatI 0xF#4 x 0x1E#8
  | .font x => formatI 0xF#4 x 0x29#8
  | .bcd x => formatI 0xF#4 x 0x33#8
  | .stm x => formatI 0xF#4 x 0x55#8
  | .ldm x => formatI 0xF#4 x 0x65#8

/-! ### The opcode map as the spec tabulates it, a second description beside the dispatch (30_encoding.md R79) -/

/-- The row of the opcode map that an instruction belongs to (30_encoding.md R79). -/
def Instr.row : Instr → OpcodeRow
  | .cls => ⟨"CLS", 0xFFFF#16, 0x00E0#16⟩
  | .ret => ⟨"RET", 0xFFFF#16, 0x00EE#16⟩
  | .jp _ => ⟨"JP", 0xF000#16, 0x1000#16⟩
  | .call _ => ⟨"CALL", 0xF000#16, 0x2000#16⟩
  | .sei _ _ => ⟨"SEI", 0xF000#16, 0x3000#16⟩
  | .snei _ _ => ⟨"SNEI", 0xF000#16, 0x4000#16⟩
  | .ser _ _ => ⟨"SER", 0xF00F#16, 0x5000#16⟩
  | .ldi _ _ => ⟨"LDI", 0xF000#16, 0x6000#16⟩
  | .addi _ _ => ⟨"ADDI", 0xF000#16, 0x7000#16⟩
  | .mov _ _ => ⟨"MOV", 0xF00F#16, 0x8000#16⟩
  | .or _ _ => ⟨"OR", 0xF00F#16, 0x8001#16⟩
  | .and _ _ => ⟨"AND", 0xF00F#16, 0x8002#16⟩
  | .xor _ _ => ⟨"XOR", 0xF00F#16, 0x8003#16⟩
  | .add _ _ => ⟨"ADD", 0xF00F#16, 0x8004#16⟩
  | .sub _ _ => ⟨"SUB", 0xF00F#16, 0x8005#16⟩
  | .shr _ _ => ⟨"SHR", 0xF00F#16, 0x8006#16⟩
  | .subn _ _ => ⟨"SUBN", 0xF00F#16, 0x8007#16⟩
  | .shl _ _ => ⟨"SHL", 0xF00F#16, 0x800E#16⟩
  | .sner _ _ => ⟨"SNER", 0xF00F#16, 0x9000#16⟩
  | .ldx _ => ⟨"LDX", 0xF000#16, 0xA000#16⟩
  | .jpv0 _ => ⟨"JPV0", 0xF000#16, 0xB000#16⟩
  | .rnd _ _ => ⟨"RND", 0xF000#16, 0xC000#16⟩
  | .drw _ _ _ => ⟨"DRW", 0xF000#16, 0xD000#16⟩
  | .skp _ => ⟨"SKP", 0xF0FF#16, 0xE09E#16⟩
  | .sknp _ => ⟨"SKNP", 0xF0FF#16, 0xE0A1#16⟩
  | .lddt _ => ⟨"LDDT", 0xF0FF#16, 0xF007#16⟩
  | .waitk _ => ⟨"WAITK", 0xF0FF#16, 0xF00A#16⟩
  | .stdt _ => ⟨"STDT", 0xF0FF#16, 0xF015#16⟩
  | .stst _ => ⟨"STST", 0xF0FF#16, 0xF018#16⟩
  | .addx _ => ⟨"ADDX", 0xF0FF#16, 0xF01E#16⟩
  | .font _ => ⟨"FONT", 0xF0FF#16, 0xF029#16⟩
  | .bcd _ => ⟨"BCD", 0xF0FF#16, 0xF033#16⟩
  | .stm _ => ⟨"STM", 0xF0FF#16, 0xF055#16⟩
  | .ldm _ => ⟨"LDM", 0xF0FF#16, 0xF065#16⟩

/-- The opcode map, one row per instruction in the table's order (30_encoding.md R79). -/
def opcodeMap : List OpcodeRow :=
  ([.cls, .ret, .jp 0, .call 0, .sei 0 0, .snei 0 0, .ser 0 0, .ldi 0 0, .addi 0 0, .mov 0 0, .or 0 0, .and 0 0,
    .xor 0 0, .add 0 0, .sub 0 0, .shr 0 0, .subn 0 0] : List Instr).map Instr.row ++
  ([.shl 0 0, .sner 0 0, .ldx 0, .jpv0 0, .rnd 0 0, .drw 0 0 0, .skp 0, .sknp 0, .lddt 0, .waitk 0, .stdt 0, .stst 0,
    .addx 0, .font 0, .bcd 0, .stm 0, .ldm 0] : List Instr).map Instr.row

/-- The word matches the row: `w AND mask = match` (30_encoding.md R79). -/
def OpcodeRow.hits (r : OpcodeRow) (w : Word) : Bool := w &&& r.mask == r.pattern

end Sys2Proof
end

