-- ==== Sys2Proof/Machine/Memory.lean ====
section
/-! DEFINITION. The memory `M`: 4096 bytes, as the sorted list of the (address, byte) pairs that differ from the
reset contents (spec 20_memory.md R50, R51; 10_state.md R39). -/

namespace Sys2Proof.Machine

/-- Memory in canonical form: addresses strictly rising and below 4096, no entry equal to what an unlisted address
reads as. -/
abbrev Memory := List Host.Cell

/-- Byte `k` of the built-in font: the OPEN parameter `FONT` (00_scope.md R6; log entry 1). -/
def fontByte (k : Nat) : Byte := Config.font k

/-- What an unlisted address reads as: the reset contents, zero but for the font at 0x050 to 0x09F
(20_memory.md R51, 10_state.md R39). -/
def resetByte (a : Nat) : Byte :=
  if Config.fontBase ≤ a ∧ a < Config.fontBase + Config.fontBytes then fontByte (a - Config.fontBase) else 0

/-- `M[a]`: the byte at address `a` (00_scope.md R10). -/
def Memory.get : Memory → Nat → Byte
  | [], a => resetByte a
  | (c, v) :: rest, a => if a = c then v else Memory.get rest a

/-- The list with `b` at address `a`, canonical form kept: a byte equal to the reset contents is not listed. -/
def Memory.put : Memory → Nat → Byte → Memory
  | [], a, b => if b = resetByte a then [] else [(a, b)]
  | (c, v) :: rest, a, b =>
    if a < c then (if b = resetByte a then (c, v) :: rest else (a, b) :: (c, v) :: rest)
    else if a = c then (if b = resetByte a then rest else (a, b) :: rest)
    else (c, v) :: Memory.put rest a b

/-- `M[a] <- b`. There is no byte at or above 4096 (20_memory.md R50) and no rule writes there: every data access is
checked first (20_memory.md R58); such a write is dropped here (log entry 19). -/
def Memory.set (m : Memory) (a : Nat) (b : Byte) : Memory :=
  if a < Config.memSize then Memory.put m a b else m

/-- Successive bytes from address `a` upward, in ascending order (20_memory.md R54). -/
def Memory.setBytes : Memory → Nat → List Byte → Memory
  | m, _, [] => m
  | m, a, b :: bs => Memory.setBytes (Memory.set m a b) (a + 1) bs

/-- Every entry from address `lo` on is a byte of memory that differs from the reset contents, and the addresses
strictly rise. -/
def Memory.wfFrom : Nat → Memory → Bool
  | _, [] => true
  | lo, (a, b) :: rest => lo ≤ a && a < Config.memSize && b != resetByte a && Memory.wfFrom (a + 1) rest

/-- The canonical form holds. -/
def Memory.wf (m : Memory) : Bool := Memory.wfFrom 0 m

end Sys2Proof.Machine
end

