-- ==== Sys2Proof/Machine/State.lean ====
section
/-! DEFINITION. The architectural state, whole (spec 10_state.md R20), its reset value (10_state.md R39), and the
reasons a step can stop. -/

namespace Sys2Proof.Machine

/-- `KW`, the state of the key-wait instruction (10_state.md R32). -/
inductive KeyWait where
  | idle
  | waitingForKey
  deriving DecidableEq, Repr

/-- The faults of the core, each with its payload (60_exceptions.md R201). They are the machine's own state: a fault
is latched in `FAULT` by a NEXT state (R207), so none of these ends a run (log entry 3). -/
inductive CoreFault where
  /-- Code 1: a word that is no instruction; the payload is the whole word (R202). -/
  | unknownOpcode (w : Word)
  /-- Code 2: CALL with all 16 slots in use (R203). -/
  | stackOverflow
  /-- Code 3: RET with an empty stack (R203). -/
  | stackUnderflow
  /-- Code 4: a data address above 0xFFF; the payload is the lowest such address (R205). -/
  | memoryOutOfRange (a : Nat)
  /-- Code 5: SKP or SKNP with a register above 15; the payload is the register's value (R206). -/
  | badKeyIndex (v : Byte)
  deriving DecidableEq, Repr

/-- The framebuffer: 32 rows of 64 pixels, row-major, `true` meaning on (10_state.md R33). -/
abbrev Framebuffer := Vector (Vector Bool 64) 32

/-- The whole architectural state (10_state.md R20). The last field is the model's own. -/
structure State where
  /-- `V[0..15]`, 8 bits each; `VF` is `V[15]` (10_state.md R21, R22). -/
  v : Vector Byte 16
  /-- `I`, 16 bits (10_state.md R23). -/
  i : Word
  /-- `pc`, 16 bits (10_state.md R24). -/
  pc : Word
  /-- `SP`, 8 bits: how many return addresses the stack holds (10_state.md R27). -/
  sp : Byte
  /-- `STK[0..15]`, 16 bits each (10_state.md R28). -/
  stk : Vector Word 16
  /-- `DT`, the delay timer, 8 bits (10_state.md R29). -/
  dt : Byte
  /-- `ST`, the sound timer, 8 bits (10_state.md R30). -/
  st : Byte
  /-- `KEY[0..15]`, `true` meaning pressed (10_state.md R31). -/
  key : Vector Bool 16
  /-- `KW` (10_state.md R32). -/
  kw : KeyWait
  /-- `FB` (10_state.md R33). -/
  fb : Framebuffer
  /-- `M[0..4095]` (10_state.md R35). -/
  mem : Memory
  /-- `FAULT`: none while the core runs (10_state.md R34). -/
  fault : Option CoreFault
  /-- The model's own: how many `Rand()` draws have been taken (00_scope.md R11). DESIGN CHOICE (log entry 2). -/
  draws : Nat
  deriving DecidableEq, Repr

/-- Why a step of the MODEL stops without a next state. The faults of the core are not here: they are `CoreFault`. -/
inductive Fault where
  /-- CALL or RET with `SP` above 16: the stack slot it would use does not exist (10_state.md R28), and no rule says
  what happens, since `SP` never leaves 0 to 16 (10_state.md R27, R38). Raised by CALL and RET only, in states no run
  reaches. DESIGN CHOICE (log entry 6): safe. -/
  | noStackSlot (sp : Byte)
  deriving DecidableEq, Repr

/-- Why a step of the model is refused. -/
inductive Refusal where
  /-- An instruction that has no meaning yet; raised by no arm of `exec`, since every instruction has one: safe. -/
  | notModelled (mnemonic : String)
  deriving DecidableEq, Repr

/-- What a step answers. -/
abbrev Outcome := Host.Outcome State Fault Refusal

/-- The machine right after reset (10_state.md R39): `pc` at 0x200 and memory as constructed are the source's; the
other values are the spec's decision D12 (log entry 5); `draws` is the model's (log entry 2). -/
def State.reset : State where
  v := Vector.replicate 16 0
  i := 0
  pc := 0x0200
  sp := 0
  stk := Vector.replicate 16 0
  dt := 0
  st := 0
  key := Vector.replicate 16 false
  kw := .idle
  fb := Vector.replicate 32 (Vector.replicate 64 false)
  mem := []
  fault := none
  draws := 0

end Sys2Proof.Machine
end

