-- ==== Sys2Proof/Machine/Flags.lean ====
section
/-! DEFINITION. The results and the flag computations of the flag-writing instructions (spec 10_state.md R22,
40_arith_logic.md R100, R113). Each is computed over the mathematical integers and narrowed at the end
(00_scope.md R9). -/

namespace Sys2Proof.Machine

/-- A flag as `VF` holds it: 0 or 1 and nothing else (10_state.md R22). -/
def flagByte (f : Bool) : Byte := if f then 1 else 0

/-- `(a + b) mod 256` (40_arith_logic.md R102, R107). -/
def addByte (a b : Byte) : Byte := BitVec.ofNat 8 ((a.toNat + b.toNat) % 256)

/-- The carry of ADD: the sum exceeds 255 (40_arith_logic.md R107). -/
def carryOf (a b : Byte) : Bool := a.toNat + b.toNat > 255

/-- `(a - b) mod 256`, the mathematical modulus (40_arith_logic.md R108, R110). -/
def subByte (a b : Byte) : Byte := BitVec.ofInt 8 (((a.toNat : Int) - (b.toNat : Int)) % 256)

/-- The not-borrow of a subtraction `a - b`: `a ≥ b`, unsigned (40_arith_logic.md R108, R110). -/
def noBorrowOf (a b : Byte) : Bool := a.toNat ≥ b.toNat

/-- `a div 2` (40_arith_logic.md R109). -/
def shrByte (a : Byte) : Byte := BitVec.ofNat 8 (a.toNat / 2)

/-- The bit SHR shifts out, `a[0:0]` (40_arith_logic.md R109). -/
def shrOut (a : Byte) : Bool := a.getLsbD 0

/-- `(a * 2) mod 256` (40_arith_logic.md R111). -/
def shlByte (a : Byte) : Byte := BitVec.ofNat 8 (a.toNat * 2 % 256)

/-- The bit SHL shifts out, `a[7:7]` (40_arith_logic.md R111). -/
def shlOut (a : Byte) : Bool := a.getLsbD 7

end Sys2Proof.Machine
end

