-- ==== Sys2Proof/Machine/Operands.lean ====
section
/-! DEFINITION. The operand forms (spec 30_encoding.md R73, 42_memory_bcd.md R140): a register's content, an immediate
widened with zeros, an address `I + k`, a position on the screen. -/

namespace Sys2Proof.Machine

/-- `V[x]`: the 8-bit content of a general register (00_scope.md R10). No register is hardwired (10_state.md R21). -/
def State.reg (s : State) (x : Reg) : Byte := s.v[x.val]

/-- `STK[k]` (00_scope.md R10). -/
def State.slot (s : State) (k : Fin 16) : Word := s.stk[k.val]

/-- `KEY[k]`: whether key `k` is pressed (00_scope.md R10). -/
def State.pressed (s : State) (k : Key) : Bool := s.key[k.val]

/-- `FB[xx, yy]`: the pixel at column `xx`, row `yy` (10_state.md R33). -/
def Framebuffer.pixel (fb : Framebuffer) (xx : Col) (yy : Row) : Bool := fb[yy.val][xx.val]

/-- `FB[xx, yy]` of a state. -/
def State.pixel (s : State) (xx : Col) (yy : Row) : Bool := Framebuffer.pixel s.fb xx yy

/-- `M[a]` of a state (00_scope.md R10). -/
def State.byte (s : State) (a : Nat) : Byte := Memory.get s.mem a

/-- `zext_16(nnn)` (30_encoding.md R73). -/
def zext16OfAddr (nnn : Addr12) : Word := nnn.setWidth 16

/-- `zext_16(v)` of an 8-bit value (00_scope.md R9). -/
def zext16OfByte (v : Byte) : Word := v.setWidth 16

/-- The effective address `I + k`: the mathematical sum, not reduced (20_memory.md R58). -/
def State.indexAddr (s : State) (k : Nat) : Nat := s.i.toNat + k

/-- The column of sprite column `c` of a sprite that starts at `V[x]`: both reductions modulo 64
(43_display.md R162, R165). -/
def spriteCol (vx : Byte) (c : Nat) : Col := Fin.ofNat 64 (vx.toNat % 64 + c)

/-- The row of sprite row `r` of a sprite that starts at `V[y]`: both reductions modulo 32
(43_display.md R162, R165). -/
def spriteRow (vy : Byte) (r : Nat) : Row := Fin.ofNat 32 (vy.toNat % 32 + r)

/-- The bit of a sprite row shown at column `c`, 0 to 7: bit 7 is the leftmost (43_display.md R163). -/
def spriteBit (b : Byte) (c : Nat) : Bool := b.getLsbD (7 - c)

/-- The registers `V[0]` to `V[x]` in order, `x + 1` values (42_memory_bcd.md R145). -/
def State.regsUpTo (s : State) (x : Reg) : List Byte := s.v.toList.take (x.val + 1)

/-- The three decimal digits of a byte: hundreds, tens, ones (42_memory_bcd.md R144). -/
def bcdDigits (v : Byte) : List Byte :=
  [BitVec.ofNat 8 (v.toNat / 100), BitVec.ofNat 8 (v.toNat / 10 % 10), BitVec.ofNat 8 (v.toNat % 10)]

/-- The least pressed key, if any is pressed (44_input_timers.md R174). -/
def State.lowestPressed (s : State) : Option Key := (List.finRange 16).find? (fun k => s.pressed k)

end Sys2Proof.Machine
end

