-- ==== Sys2Proof/Machine/Ops.lean ====
section
/-! DEFINITION. The named operations over the state: one setter per field, the writes of the spec's pseudocode
(00_scope.md R10), the data bounds check (20_memory.md R58, R59), taking a fault (60_exceptions.md R207), fetching
(20_memory.md R55). -/

namespace Sys2Proof.Machine

/-! ### One setter per field -/

def State.setV (s : State) (a : Vector Byte 16) : State := { s with v := a }
def State.setI (s : State) (a : Word) : State := { s with i := a }
def State.setPc (s : State) (a : Word) : State := { s with pc := a }
def State.setSp (s : State) (a : Byte) : State := { s with sp := a }
def State.setStk (s : State) (a : Vector Word 16) : State := { s with stk := a }
def State.setDt (s : State) (a : Byte) : State := { s with dt := a }
def State.setSt (s : State) (a : Byte) : State := { s with st := a }
def State.setKeys (s : State) (a : Vector Bool 16) : State := { s with key := a }
def State.setKw (s : State) (a : KeyWait) : State := { s with kw := a }
def State.setFb (s : State) (a : Framebuffer) : State := { s with fb := a }
def State.setMem (s : State) (a : Memory) : State := { s with mem := a }
def State.setFault (s : State) (a : Option CoreFault) : State := { s with fault := a }
def State.setDraws (s : State) (a : Nat) : State := { s with draws := a }

/-! ### Registers -/

/-- `V[x] <- b` (00_scope.md R10). -/
def State.setReg (s : State) (x : Reg) (b : Byte) : State := s.setV (s.v.set x.val b)

/-- The result to `V[x]`, then the flag to `VF`: with `x = F` the flag is what `VF` holds (40_arith_logic.md R100). -/
def State.setResultFlag (s : State) (x : Reg) (r : Byte) (f : Bool) : State :=
  (s.setReg x r).setReg VF (flagByte f)

/-- `V[k] <- M[I + k]` for `k = 0` to `x`, the other registers unchanged (42_memory_bcd.md R146). -/
def State.loadRegs (s : State) (x : Reg) : State :=
  (List.range (x.val + 1)).foldl (fun t k => t.setReg (Fin.ofNat 16 k) (s.byte (s.indexAddr k))) s

/-! ### The program counter -/

/-- `pc <- pc + 2`, modulo 65536: the advance of the step and the skip (10_state.md R26, 41_control_flow.md R124). -/
def State.advance (s : State) : State := s.setPc (s.pc + 2)

/-- `pc <- pc - 2`, modulo 65536: WAITK's stall (44_input_timers.md R174). -/
def State.stepBack (s : State) : State := s.setPc (s.pc - 2)

/-- A skip adds a further 2 when its condition holds (41_control_flow.md R124). -/
def State.skipIf (s : State) (c : Bool) : State := if c then s.advance else s

/-! ### Taking a fault -/

/-- Fault entry, the one operation every faulting instruction uses (60_exceptions.md R207): none of the instruction's
writes, `pc` as the step left it before decoding, `FAULT` latched. There is no return from a fault (R210), so no
operation stands beside it. The fault the step returns to the host is the new `FAULT` (log entry 3). -/
def takeFault (f : CoreFault) (s : State) : Outcome := .next (s.setFault (some f))

/-- A step of a halted core: no fetch, no change, the same fault returned (60_exceptions.md R207; log entry 4). -/
def haltedStep (_f : CoreFault) (s : State) : Outcome := .next s

/-- The word is no instruction: `UnknownOpcode(w)` (30_encoding.md R81, 60_exceptions.md R202). -/
def unknownWord (w : Word) (s : State) : Outcome := takeFault (.unknownOpcode w) s

/-! ### Data accesses -/

/-- The check of one single-byte access at address `a` (20_memory.md R58). -/
def accessFault (a : Nat) : Option CoreFault := if a > 0xFFF then some (.memoryOutOfRange a) else none

/-- The check of the accesses `I`, `I + 1`, ..., `count` of them, before any of them: the fault of the lowest address
above 0xFFF, if any (20_memory.md R59). No access, no fault. -/
def State.rangeFault (s : State) (count : Nat) : Option CoreFault :=
  (List.range count).findSome? (fun k => accessFault (s.indexAddr k))

/-- An instruction with `count` data accesses from `I`: it faults before its first write if one of them is out of
range, and else goes on (20_memory.md R59). -/
def guardRange (count : Nat) (s : State) (go : State) : Outcome :=
  match s.rangeFault count with
  | some f => takeFault f s
  | none => .next go

/-- Bytes from address `a` upward in ascending order (20_memory.md R54). -/
def State.storeBytes (s : State) (a : Nat) (bs : List Byte) : State := s.setMem (Memory.setBytes s.mem a bs)

/-! ### The call stack (10_state.md R28) -/

/-- `push(v)` and go on at `target`: `STK[SP] <- v; SP <- SP + 1`, `StackOverflow` at `SP = 16`. With `SP` above 16
there is no slot to write: the model stops (log entry 6). -/
def pushAndGo (ret target : Word) (s : State) : Outcome :=
  if h : s.sp.toNat < 16 then
    .next (((s.setStk (s.stk.set s.sp.toNat ret)).setSp (s.sp + 1)).setPc target)
  else if s.sp = 16 then takeFault .stackOverflow s
  else .fault (.noStackSlot s.sp)

/-- `pc <- pop()`: `SP <- SP - 1; pc <- STK[SP]`, `StackUnderflow` at `SP = 0`. With `SP` above 16 there is no slot to
read: the model stops (log entry 6). -/
def popAndGo (s : State) : Outcome :=
  if s.sp = 0 then takeFault .stackUnderflow s
  else if h : s.sp.toNat - 1 < 16 then .next ((s.setSp (s.sp - 1)).setPc s.stk[s.sp.toNat - 1])
  else .fault (.noStackSlot s.sp)

/-! ### The framebuffer -/

/-- Every pixel off (43_display.md R161). -/
def blankScreen : Framebuffer := Vector.replicate 32 (Vector.replicate 64 false)

/-- One pixel toggled: `FB[xx, yy] <- not FB[xx, yy]` (43_display.md R162). -/
def Framebuffer.toggle (fb : Framebuffer) (xx : Col) (yy : Row) : Framebuffer :=
  fb.set yy.val (fb[yy.val].set xx.val (!Framebuffer.pixel fb xx yy))

/-- One set sprite bit at a pixel: the collision is noted if the pixel is lit, then the pixel is toggled
(43_display.md R162, R164). The pair is the framebuffer and `hit`. -/
def blitPixel (xx : Col) (yy : Row) (p : Framebuffer × Bool) : Framebuffer × Bool :=
  (Framebuffer.toggle p.1 xx yy, p.2 || Framebuffer.pixel p.1 xx yy)

/-- One sprite row `b`, columns 0 to 7 (43_display.md R162). -/
def blitRow (vx : Byte) (yy : Row) (b : Byte) (p : Framebuffer × Bool) : Framebuffer × Bool :=
  (List.range 8).foldl (fun q c => if spriteBit b c then blitPixel (spriteCol vx c) yy q else q) p

/-- The sprite's `n` rows, row `r` read from address `I + r` (43_display.md R162). -/
def State.blit (s : State) (vx vy : Byte) (n : Nat) : Framebuffer × Bool :=
  (List.range n).foldl (fun q r => blitRow vx (spriteRow vy r) (s.byte (s.indexAddr r)) q) (s.fb, false)

/-! ### The keypad -/

/-- An instruction that tests the key `V[x]` and skips if the test holds: `BadKeyIndex` above 15
(44_input_timers.md R171 to R173). -/
def keySkip (x : Reg) (test : Bool → Bool) (s : State) : Outcome :=
  if h : (s.reg x).toNat < 16 then .next (s.skipIf (test (s.pressed ⟨(s.reg x).toNat, h⟩)))
  else takeFault (.badKeyIndex (s.reg x)) s

/-! ### The random draw -/

/-- `Rand()`: the byte of this draw (00_scope.md R11; log entry 2). -/
def State.draw (s : State) : Byte := Config.randByte s.draws

/-- The draw has been taken: the next one is a fresh value (00_scope.md R11; log entry 2). -/
def State.nextDraw (s : State) : State := s.setDraws (s.draws + 1)

/-! ### The fetch -/

/-- `Fetch(a) = M[a mod 4096]`: never faults (20_memory.md R55). -/
def State.fetchByte (s : State) (a : Nat) : Byte := s.byte (a % Config.memSize)

/-- The word at `pc`, big-endian, both bytes reduced separately (20_memory.md R53, R55). -/
def State.fetchWord (s : State) : Word := wordOf (s.fetchByte s.pc.toNat) (s.fetchByte (s.pc.toNat + 1))

/-- The word laid where the next step fetches it, high byte first, in a core that is not halted: a halted core does
not fetch (20_memory.md R53, R55; 60_exceptions.md R207; log entry 7). -/
def State.placeWord (s : State) (w : Word) : State :=
  let hi := s.pc.toNat % Config.memSize
  let lo := (s.pc.toNat + 1) % Config.memSize
  (s.setMem (Memory.set (Memory.set s.mem hi (w.extractLsb' 8 8)) lo (w.extractLsb' 0 8))).setFault none

end Sys2Proof.Machine
end

