-- ==== Sys2Proof/Machine/ArithLogic.lean ====
section
/-! DEFINITION. The arithmetic and logic instructions (spec 40_arith_logic.md). Every operand is read before any
register is written (R100); `pc` already holds the address of the next instruction. None of them can fault. -/

namespace Sys2Proof.Machine

/-- LDI: `V[x] <- nn` (40_arith_logic.md R101). -/
def execLdi (x : Reg) (nn : Byte) (s : State) : Outcome := .next (s.setReg x nn)

/-- ADDI: `V[x] <- (V[x] + nn) mod 256`, no flag (40_arith_logic.md R102). -/
def execAddi (x : Reg) (nn : Byte) (s : State) : Outcome := .next (s.setReg x (addByte (s.reg x) nn))

/-- MOV: `V[x] <- V[y]` (40_arith_logic.md R103). -/
def execMov (x y : Reg) (s : State) : Outcome := .next (s.setReg x (s.reg y))

/-- OR, bit by bit; `VF` is left alone (40_arith_logic.md R104). -/
def execOr (x y : Reg) (s : State) : Outcome := .next (s.setReg x (s.reg x ||| s.reg y))

/-- AND, bit by bit; `VF` is left alone (40_arith_logic.md R105). -/
def execAnd (x y : Reg) (s : State) : Outcome := .next (s.setReg x (s.reg x &&& s.reg y))

/-- XOR, bit by bit; `VF` is left alone (40_arith_logic.md R106). -/
def execXor (x y : Reg) (s : State) : Outcome := .next (s.setReg x (s.reg x ^^^ s.reg y))

/-- ADD: the sum modulo 256, then `VF` the carry (40_arith_logic.md R107). -/
def execAdd (x y : Reg) (s : State) : Outcome :=
  .next (s.setResultFlag x (addByte (s.reg x) (s.reg y)) (carryOf (s.reg x) (s.reg y)))

/-- SUB: `V[x] - V[y]` modulo 256, then `VF` the not-borrow (40_arith_logic.md R108). -/
def execSub (x y : Reg) (s : State) : Outcome :=
  .next (s.setResultFlag x (subByte (s.reg x) (s.reg y)) (noBorrowOf (s.reg x) (s.reg y)))

/-- SHR: `V[x] div 2`, then `VF` the bit shifted out; `y` is ignored (40_arith_logic.md R109). -/
def execShr (x _y : Reg) (s : State) : Outcome :=
  .next (s.setResultFlag x (shrByte (s.reg x)) (shrOut (s.reg x)))

/-- SUBN: `V[y] - V[x]` modulo 256, then `VF` the not-borrow (40_arith_logic.md R110). -/
def execSubn (x y : Reg) (s : State) : Outcome :=
  .next (s.setResultFlag x (subByte (s.reg y) (s.reg x)) (noBorrowOf (s.reg y) (s.reg x)))

/-- SHL: `V[x] * 2` modulo 256, then `VF` the bit shifted out; `y` is ignored (40_arith_logic.md R111). -/
def execShl (x _y : Reg) (s : State) : Outcome :=
  .next (s.setResultFlag x (shlByte (s.reg x)) (shlOut (s.reg x)))

/-- RND: a fresh draw AND `nn` (40_arith_logic.md R112). -/
def execRnd (x : Reg) (nn : Byte) (s : State) : Outcome := .next (s.nextDraw.setReg x (s.draw &&& nn))

end Sys2Proof.Machine
end

