-- ==== Sys2Proof/Machine/ControlFlow.lean ====
section
/-! DEFINITION. The control-flow instructions (spec 41_control_flow.md). `pc` already holds the address of the next
instruction (R120). -/

namespace Sys2Proof.Machine

/-- RET: `pc <- pop()` (41_control_flow.md R121). -/
def execRet (s : State) : Outcome := popAndGo s

/-- JP: `pc <- zext_16(nnn)` (41_control_flow.md R122). -/
def execJp (nnn : Addr12) (s : State) : Outcome := .next (s.setPc (zext16OfAddr nnn))

/-- CALL: the return address is pushed, then `pc <- zext_16(nnn)` (41_control_flow.md R123). -/
def execCall (nnn : Addr12) (s : State) : Outcome := pushAndGo s.pc (zext16OfAddr nnn) s

/-- SEI: skip if `V[x] = nn` (41_control_flow.md R125). -/
def execSei (x : Reg) (nn : Byte) (s : State) : Outcome := .next (s.skipIf (s.reg x == nn))

/-- SNEI: skip if `V[x] ≠ nn` (41_control_flow.md R126). -/
def execSnei (x : Reg) (nn : Byte) (s : State) : Outcome := .next (s.skipIf (s.reg x != nn))

/-- SER: skip if `V[x] = V[y]` (41_control_flow.md R127). -/
def execSer (x y : Reg) (s : State) : Outcome := .next (s.skipIf (s.reg x == s.reg y))

/-- SNER: skip if `V[x] ≠ V[y]` (41_control_flow.md R128). -/
def execSner (x y : Reg) (s : State) : Outcome := .next (s.skipIf (s.reg x != s.reg y))

/-- JPV0: `pc <- zext_16(nnn) + zext_16(V[0])`, kept in 16 bits (41_control_flow.md R129). -/
def execJpv0 (nnn : Addr12) (s : State) : Outcome := .next (s.setPc (zext16OfAddr nnn + zext16OfByte (s.reg 0)))

end Sys2Proof.Machine
end

