-- ==== Sys2Proof/Machine/Display.lean ====
section
/-! DEFINITION. The display instructions (spec 43_display.md): CLS is the one explicit clear, DRW the XOR-blit
(R160). -/

namespace Sys2Proof.Machine

/-- CLS: every pixel off, `VF` unchanged (43_display.md R161). -/
def execCls (s : State) : Outcome := .next (s.setFb blankScreen)

/-- DRW: `n` sprite rows from `I` XORed at (`V[x]` mod 64, `V[y]` mod 32), then `VF` the collision flag
(43_display.md R162). The coordinates are read before `VF` is written (R166). -/
def execDrw (x y : Reg) (n : Nat) (s : State) : Outcome :=
  guardRange n s
    ((s.setFb (s.blit (s.reg x) (s.reg y) n).1).setReg VF (flagByte (s.blit (s.reg x) (s.reg y) n).2))

end Sys2Proof.Machine
end

