-- ==== Sys2Proof/Machine/InputTimers.lean ====
section
/-! DEFINITION. The keypad and timer instructions (spec 44_input_timers.md). The keypad is sampled as it stands at the
step (R170); the timers are set and read, never decremented, by instructions (R179). -/

namespace Sys2Proof.Machine

/-- SKP: skip if the key `V[x]` is pressed (44_input_timers.md R172). -/
def execSkp (x : Reg) (s : State) : Outcome := keySkip x (fun down => down) s

/-- SKNP: skip if the key `V[x]` is not pressed (44_input_timers.md R173). -/
def execSknp (x : Reg) (s : State) : Outcome := keySkip x (fun down => !down) s

/-- WAITK: with a key pressed, its least index to `V[x]` and on; with none, wait by going back to this instruction
(44_input_timers.md R174). -/
def execWaitk (x : Reg) (s : State) : Outcome :=
  match s.lowestPressed with
  | some k => .next ((s.setReg x (BitVec.ofNat 8 k.val)).setKw .idle)
  | none => .next ((s.setKw .waitingForKey).stepBack)

/-- LDDT: `V[x] <- DT` (44_input_timers.md R176). -/
def execLddt (x : Reg) (s : State) : Outcome := .next (s.setReg x s.dt)

/-- STDT: `DT <- V[x]` (44_input_timers.md R177). -/
def execStdt (x : Reg) (s : State) : Outcome := .next (s.setDt (s.reg x))

/-- STST: `ST <- V[x]` (44_input_timers.md R178). -/
def execStst (x : Reg) (s : State) : Outcome := .next (s.setSt (s.reg x))

end Sys2Proof.Machine
end

