-- ==== Sys2Proof/Machine/MemoryBcd.lean ====
section
/-! DEFINITION. The index-register, memory-block and BCD instructions (spec 42_memory_bcd.md). None of them writes
`VF` as a flag; BCD, STM and LDM leave `I` alone (R140) and check every address before the first write
(20_memory.md R59). -/

namespace Sys2Proof.Machine

/-- LDX: `I <- zext_16(nnn)` (42_memory_bcd.md R141). -/
def execLdx (nnn : Addr12) (s : State) : Outcome := .next (s.setI (zext16OfAddr nnn))

/-- ADDX: `I <- (I + zext_16(V[x])) mod 65536`, no flag (42_memory_bcd.md R142). -/
def execAddx (x : Reg) (s : State) : Outcome := .next (s.setI (s.i + zext16OfByte (s.reg x)))

/-- FONT: `I <- 0x0050 + 5 * zext_16(V[x])`, the whole 8-bit `V[x]`, formed in 16 bits (42_memory_bcd.md R143). -/
def execFont (x : Reg) (s : State) : Outcome :=
  .next (s.setI (BitVec.ofNat 16 Config.fontBase + BitVec.ofNat 16 Config.glyphBytes * zext16OfByte (s.reg x)))

/-- BCD: hundreds, tens and ones digit of `V[x]` at `I`, `I + 1`, `I + 2` (42_memory_bcd.md R144). -/
def execBcd (x : Reg) (s : State) : Outcome :=
  guardRange 3 s (s.storeBytes (s.indexAddr 0) (bcdDigits (s.reg x)))

/-- STM: `V[0]` to `V[x]` at `I` to `I + x` (42_memory_bcd.md R145). -/
def execStm (x : Reg) (s : State) : Outcome :=
  guardRange (x.val + 1) s (s.storeBytes (s.indexAddr 0) (s.regsUpTo x))

/-- LDM: `V[0]` to `V[x]` from `I` to `I + x` (42_memory_bcd.md R146). -/
def execLdm (x : Reg) (s : State) : Outcome := guardRange (x.val + 1) s (s.loadRegs x)

end Sys2Proof.Machine
end

