-- ==== Sys2Proof/Machine/Step.lean ====
section
/-! DEFINITION. One call of `step()` (spec 70_reset_and_hazards.md R246), and the placing of an instruction where the
next step fetches it. -/

namespace Sys2Proof.Machine

/-- The step driver: a halted core does nothing; else fetch at `pc`, advance `pc` by 2, decode, and dispatch to the
handler, which may write `pc` again (70_reset_and_hazards.md R246). -/
def step (s : State) : Host.Outcome State Fault Refusal :=
  match s.fault with
  | some f => haltedStep f s
  | none =>
    match decode s.fetchWord with
    | .unknown w => unknownWord w s.advance
    | .instr i => exec i s.advance

/-- The state with the instruction whose bits are `w`, numbered as spec/opcode_table.json numbers them, stored where
`step` fetches its next instruction (log entry 7). -/
def State.withFetchWord (s : State) (nbits w : Nat) : State := s.placeWord (BitVec.ofNat 16 (w % 2 ^ nbits))

end Sys2Proof.Machine
end

