-- ==== Sys2Proof/Machine/HostPort.lean ====
section
/-! DEFINITION. The host's operations at the core's boundary (spec 60_exceptions.md R222 to R231): atomic transactions
between steps, in any order. Together with `step` they are the transitions of the machine
(70_reset_and_hazards.md R248). -/

namespace Sys2Proof.Machine

/-- An operation the host calls (60_exceptions.md R222). -/
inductive HostOp where
  | loadProgram (bytes : List Byte)
  | loadFont (glyphs : List Byte)
  | tickTimers
  | setKey (index : Nat) (pressed : Bool)
  | framebuffer
  | delayTimer
  | soundTimer
  | step
  deriving DecidableEq, Repr

/-- What an operation returns to the host (60_exceptions.md R222 to R229). -/
inductive Reply where
  /-- The operation was carried out; of `step`, success. -/
  | done
  /-- `step` returns the fault (R229, R207). -/
  | fault (f : CoreFault)
  /-- `load_program` would exceed memory (R223, R204). -/
  | loadError
  /-- A bad argument, refused without change (R224, R226). -/
  | refused
  /-- `framebuffer()` (R227). -/
  | grid (fb : Framebuffer)
  /-- `delay_timer()`, `sound_timer()` (R228). -/
  | count (b : Byte)
  deriving DecidableEq, Repr

/-- `load_program(bytes)`: the bytes from 0x200 upward; `LoadError` and no change if they would exceed memory
(60_exceptions.md R223). -/
def State.loadProgram (bytes : List Byte) (s : State) : Reply × State :=
  if Config.progBase + bytes.length > Config.memSize then (.loadError, s)
  else (.done, s.storeBytes Config.progBase bytes)

/-- `load_font(glyphs)`: 80 bytes at 0x050; any other length is refused without change (60_exceptions.md R224). -/
def State.loadFont (glyphs : List Byte) (s : State) : Reply × State :=
  if glyphs.length = Config.fontBytes then (.done, s.storeBytes Config.fontBase glyphs) else (.refused, s)

/-- One tick of one timer: down by 1, floored at zero (60_exceptions.md R225). -/
def tickDown (t : Byte) : Byte := if t.toNat > 0 then t - 1 else t

/-- `tick_timers()`: both timers (60_exceptions.md R225). -/
def State.tickTimers (s : State) : State := (s.setDt (tickDown s.dt)).setSt (tickDown s.st)

/-- `set_key(index, pressed)`: the level is recorded; an index of 16 or more is refused without change
(60_exceptions.md R226). -/
def State.setKey (index : Nat) (pressed : Bool) (s : State) : Reply × State :=
  if h : index < 16 then (.done, s.setKeys (s.key.set index pressed)) else (.refused, s)

/-- `sound_active`: ST is not 0 (60_exceptions.md R221). -/
def State.soundActive (s : State) : Bool := s.st != 0

/-- What a `step` that ends in state `s` returns: the latched fault, or success (60_exceptions.md R207, R229). -/
def State.stepReply (s : State) : Reply :=
  match s.fault with
  | some f => .fault f
  | none => .done

/-- One operation: its reply and the state after it (60_exceptions.md R222, R231). A `step` in which the model itself
stops has neither. -/
def hostCall (op : HostOp) (s : State) : Host.Outcome (Reply × State) Fault Refusal :=
  match op with
  | .loadProgram bytes => .next (s.loadProgram bytes)
  | .loadFont glyphs => .next (s.loadFont glyphs)
  | .tickTimers => .next (.done, s.tickTimers)
  | .setKey index pressed => .next (s.setKey index pressed)
  | .framebuffer => .next (.grid s.fb, s)
  | .delayTimer => .next (.count s.dt, s)
  | .soundTimer => .next (.count s.st, s)
  | .step =>
    match step s with
    | .next t => .next (t.stepReply, t)
    | .fault r => .fault r
    | .refused r => .refused r

/-- A schedule of operations, one after the other, with the replies in order (70_reset_and_hazards.md R248). -/
def runHost : List HostOp → State → Host.Outcome (List Reply × State) Fault Refusal
  | [], s => .next ([], s)
  | op :: ops, s =>
    match hostCall op s with
    | .next (r, t) =>
      match runHost ops t with
      | .next (rs, u) => .next (r :: rs, u)
      | .fault f => .fault f
      | .refused f => .refused f
    | .fault f => .fault f
    | .refused f => .refused f

end Sys2Proof.Machine
end

