-- ==== Sys2Proof/Safety.lean ====
section
/-! DEFINITION. The terms claims use: the invariant of the machine, the end of a run, frames, and the tables of the
spec that speak of all instructions at once (10_state.md R22, R25, R38; 30_encoding.md R84;
70_reset_and_hazards.md R260). -/

namespace Sys2Proof.Machine

/-! ### Good states -/

/-- The core has faulted (00_scope.md R13). -/
def State.halted (s : State) : Bool := s.fault.isSome

/-- The payload is one the fault can carry (60_exceptions.md R201): a word that is no instruction, an address
0x1000 to 0xFFFF, a register value above 15. -/
def CoreFault.legal : CoreFault → Bool
  | .unknownOpcode w => decode w == .unknown w
  | .stackOverflow => true
  | .stackUnderflow => true
  | .memoryOutOfRange a => 0x1000 ≤ a && a ≤ 0xFFFF
  | .badKeyIndex v => v.toNat > 15

/-- The latched fault, if any, carries a legal payload. -/
def State.faultLegal (s : State) : Bool :=
  match s.fault with
  | none => true
  | some f => f.legal

/-- The invariant of the machine: memory in canonical form, `SP` 0 to 16 (10_state.md R38 d), and a legal latched
fault (60_exceptions.md R201). -/
def State.inv (s : State) : Bool := Memory.wf s.mem && s.sp.toNat ≤ 16 && s.faultLegal

/-- A finished run, the spec's convention (70_reset_and_hazards.md R260): unfaulted, and `pc mod 4096` holds a `JP` to
itself. -/
def State.finished (s : State) : Bool :=
  s.fault == none && decode s.fetchWord == .instr (.jp (BitVec.ofNat 12 s.pc.toNat))

/-! ### Frames -/

/-- The parts of the state beside the general registers (10_state.md R20; `draws` is the model's own). -/
inductive Part where
  | index | pc | stack | delay | sound | keys | keyWait | screen | memory | fault | draws
  deriving DecidableEq, Repr

/-- The part is the same in both states; memory, screen, stack and keypad through the reads of one element. -/
def Part.kept (p : Part) (s t : State) : Prop :=
  match p with
  | .index => t.i = s.i
  | .pc => t.pc = s.pc
  | .stack => t.sp = s.sp ∧ ∀ k, t.slot k = s.slot k
  | .delay => t.dt = s.dt
  | .sound => t.st = s.st
  | .keys => ∀ k, t.pressed k = s.pressed k
  | .keyWait => t.kw = s.kw
  | .screen => ∀ xx yy, t.pixel xx yy = s.pixel xx yy
  | .memory => ∀ a, t.byte a = s.byte a
  | .fault => t.fault = s.fault
  | .draws => t.draws = s.draws

/-- From `s` to `t` no register outside `regs` and no part outside `parts` changes. -/
def Frame (regs : List Reg) (parts : List Part) (s t : State) : Prop :=
  (∀ r, r ∉ regs → t.reg r = s.reg r) ∧ ∀ p, p ∉ parts → Part.kept p s t

/-- Every byte outside the `n` bytes from address `a` reads as before. -/
def MemKeptOutside (a n : Nat) (s t : State) : Prop := ∀ b, (b < a ∨ a + n ≤ b) → t.byte b = s.byte b

/-- The registers `V[0]` to `V[x]` (42_memory_bcd.md R146). -/
def regsTo (x : Reg) : List Reg := (List.finRange 16).filter (fun r => r ≤ x)

/-! ### Tables over all instructions -/

/-- The six instructions that write `VF` as a flag (10_state.md R22). -/
def writesFlag : Instr → Bool
  | .add _ _ | .sub _ _ | .shr _ _ | .subn _ _ | .shl _ _ | .drw _ _ _ => true
  | .cls | .ret | .jp _ | .call _ | .sei _ _ | .snei _ _ | .ser _ _ | .ldi _ _ | .addi _ _ | .mov _ _ | .or _ _
  | .and _ _ | .xor _ _ | .sner _ _ | .ldx _ | .jpv0 _ | .rnd _ _ | .skp _ | .sknp _ | .lddt _ | .waitk _ | .stdt _
  | .stst _ | .addx _ | .font _ | .bcd _ | .stm _ | .ldm _ => false

/-- The general registers an instruction may write: the registers of the column *Writes* of 30_encoding.md R84. -/
def writtenRegs : Instr → List Reg
  | .ldi x _ | .addi x _ | .mov x _ | .or x _ | .and x _ | .xor x _ | .rnd x _ | .lddt x | .waitk x => [x]
  | .add x _ | .sub x _ | .shr x _ | .subn x _ | .shl x _ => [x, VF]
  | .drw _ _ _ => [VF]
  | .ldm x => regsTo x
  | .cls | .ret | .jp _ | .call _ | .sei _ _ | .snei _ _ | .ser _ _ | .sner _ _ | .ldx _ | .jpv0 _ | .skp _ | .sknp _
  | .stdt _ | .stst _ | .addx _ | .font _ | .bcd _ | .stm _ => []

/-- The other parts an instruction may write: the rest of the column *Writes* of 30_encoding.md R84, and `FAULT` for
the instructions of the table of 60_exceptions.md R201. -/
def writtenParts : Instr → List Part
  | .cls => [.screen]
  | .ret | .call _ => [.stack, .pc, .fault]
  | .jp _ | .jpv0 _ | .sei _ _ | .snei _ _ | .ser _ _ | .sner _ _ => [.pc]
  | .skp _ | .sknp _ => [.pc, .fault]
  | .ldi _ _ | .addi _ _ | .mov _ _ | .or _ _ | .and _ _ | .xor _ _ | .add _ _ | .sub _ _ | .shr _ _ | .subn _ _
  | .shl _ _ | .lddt _ => []
  | .ldx _ | .addx _ | .font _ => [.index]
  | .rnd _ _ => [.draws]
  | .drw _ _ _ => [.screen, .fault]
  | .waitk _ => [.keyWait, .pc]
  | .stdt _ => [.delay]
  | .stst _ => [.sound]
  | .bcd _ | .stm _ => [.memory, .fault]
  | .ldm _ => [.fault]

/-- The address and the number of bytes an instruction may store to, from the state its handler sees
(20_memory.md R52): three bytes for BCD, `x + 1` for STM, none for the others. -/
def storedBytes (i : Instr) (s : State) : Nat × Nat :=
  match i with
  | .bcd _ => (s.indexAddr 0, 3)
  | .stm x => (s.indexAddr 0, x.val + 1)
  | .cls | .ret | .jp _ | .call _ | .sei _ _ | .snei _ _ | .ser _ _ | .ldi _ _ | .addi _ _ | .mov _ _ | .or _ _
  | .and _ _ | .xor _ _ | .add _ _ | .sub _ _ | .shr _ _ | .subn _ _ | .shl _ _ | .sner _ _ | .ldx _ | .jpv0 _
  | .rnd _ _ | .drw _ _ _ | .skp _ | .sknp _ | .lddt _ | .waitk _ | .stdt _ | .stst _ | .addx _ | .font _
  | .ldm _ => (0, 0)

/-- The table of 10_state.md R25: `pc` after a step that does not fault, from the state `s` in which the step began;
`a` is the address the instruction was fetched from. -/
def pcAfter (i : Instr) (s : State) : Word :=
  let a := s.pc
  let skip (c : Bool) : Word := if c then a + 4 else a + 2
  match i with
  | .jp nnn => nnn.setWidth 16
  | .call nnn => nnn.setWidth 16
  | .ret => if h : s.sp.toNat - 1 < 16 then s.slot ⟨s.sp.toNat - 1, h⟩ else a + 2
  | .jpv0 nnn => nnn.setWidth 16 + (s.reg 0).setWidth 16
  | .sei x nn => skip (s.reg x == nn)
  | .snei x nn => skip (s.reg x != nn)
  | .ser x y => skip (s.reg x == s.reg y)
  | .sner x y => skip (s.reg x != s.reg y)
  | .skp x => skip (if h : (s.reg x).toNat < 16 then s.pressed ⟨(s.reg x).toNat, h⟩ else false)
  | .sknp x => skip (if h : (s.reg x).toNat < 16 then !s.pressed ⟨(s.reg x).toNat, h⟩ else false)
  | .waitk _ => if (∃ k, s.pressed k = true) then a + 2 else a
  | .cls | .ldi _ _ | .addi _ _ | .mov _ _ | .or _ _ | .and _ _ | .xor _ _ | .add _ _ | .sub _ _ | .shr _ _ | .subn _ _
  | .shl _ _ | .ldx _ | .rnd _ _ | .drw _ _ _ | .lddt _ | .stdt _ | .stst _ | .addx _ | .font _ | .bcd _ | .stm _
  | .ldm _ => a + 2

/-- The sprite covers a pixel: some sprite bit equal to 1 lands on it (43_display.md R162 to R165). Row `r`, column `c`
of the sprite, bit `7 - c` of the byte at `I + r`, lands at column `(Vx mod 64 + c) mod 64`, row
`(Vy mod 32 + r) mod 32`. -/
def spriteCovers (s : State) (vx vy : Byte) (n : Nat) (xx : Col) (yy : Row) : Prop :=
  ∃ r c : Nat, r < n ∧ c < 8 ∧ xx.val = (vx.toNat % 64 + c) % 64 ∧ yy.val = (vy.toNat % 32 + r) % 32 ∧
    (s.byte (s.i.toNat + r)).getLsbD (7 - c) = true

/-- Every data access of the sprite lies in memory: `n = 0`, or `I + n - 1` at most 0xFFF (20_memory.md R59). -/
def spriteInMemory (s : State) (n : Nat) : Prop := n = 0 ∨ s.i.toNat + n - 1 ≤ 0xFFF

end Sys2Proof.Machine
end

