-- ==== Sys2Proof/Certificates/Slice0/Obligations.lean ====
section
/-! DEFINITION. The statements for the provers, each with the rule or section of the spec it formalises. Where a clause
rests on a decision of the spec's own (92_eei_decisions.md) or on a choice of the model (notes/assumptions), the
docstring says so. A handler (`exec`) sees `pc` already advanced by 2 (70_reset_and_hazards.md R246), so "`pc` is
unchanged" below means that the step ends at the following instruction. -/

open Sys2Proof Sys2Proof.Machine

/-! ## Arithmetic and logic (40_arith_logic.md) -/

/-- R101, R103. LDI and MOV complete in every state: `V[x]` holds `nn`, or what `V[y]` held; nothing else changes
(`VF` included, unless `x = F`). -/
def Obligations.LdiAndMovLoadRegister : Prop :=
  ∀ (x y : Reg) (nn : Byte) (s : State),
    (∃ t, exec (.ldi x nn) s = .next t ∧ t.reg x = nn ∧ Frame [x] [] s t) ∧
    (∃ t, exec (.mov x y) s = .next t ∧ t.reg x = s.reg y ∧ Frame [x] [] s t)

/-- R102. ADDI completes in every state: the sum modulo 256, no flag, nothing else changes. -/
def Obligations.AddiWrapsWithoutFlag : Prop :=
  ∀ (x : Reg) (nn : Byte) (s : State), ∃ t, exec (.addi x nn) s = .next t ∧
    (t.reg x).toNat = ((s.reg x).toNat + nn.toNat) % 256 ∧ Frame [x] [] s t

/-- R104, R105, R106. OR, AND and XOR complete in every state, act bit by bit, and change nothing but `V[x]`; `VF` is
left alone. -/
def Obligations.LogicActsBitByBit : Prop :=
  ∀ (x y : Reg) (s : State),
    (∃ t, exec (.or x y) s = .next t ∧
      (∀ k, k < 8 → (t.reg x).getLsbD k = ((s.reg x).getLsbD k || (s.reg y).getLsbD k)) ∧ Frame [x] [] s t) ∧
    (∃ t, exec (.and x y) s = .next t ∧
      (∀ k, k < 8 → (t.reg x).getLsbD k = ((s.reg x).getLsbD k && (s.reg y).getLsbD k)) ∧ Frame [x] [] s t) ∧
    (∃ t, exec (.xor x y) s = .next t ∧
      (∀ k, k < 8 → (t.reg x).getLsbD k = Bool.xor ((s.reg x).getLsbD k) ((s.reg y).getLsbD k)) ∧ Frame [x] [] s t)

/-- 40_arith_logic.md section 2 (ADD). ADD completes in every state: the sum modulo 256 in `V[x]`, the carry in `VF`.
With `x = F` the flag is what `VF` holds (the order of writes is the spec's decision D9, log entry 14). -/
def Obligations.AddSumsWithCarry : Prop :=
  ∀ (x y : Reg) (s : State), ∃ t, exec (.add x y) s = .next t ∧
    (x ≠ VF → (t.reg x).toNat = ((s.reg x).toNat + (s.reg y).toNat) % 256) ∧
    t.reg VF = (if (s.reg x).toNat + (s.reg y).toNat > 255 then 1 else 0) ∧ Frame [x, VF] [] s t

/-- 40_arith_logic.md section 2 (SUB, SUBN). Both complete in every state: `V[x] - V[y]` (SUBN: `V[y] - V[x]`) modulo
256 in `V[x]`, not-borrow in `VF`. With `x = F` the flag is what `VF` holds (the order of writes is the spec's decision
D9, log entry 14). -/
def Obligations.SubAndSubnSubtract : Prop :=
  ∀ (x y : Reg) (s : State),
    (∃ t, exec (.sub x y) s = .next t ∧
      (x ≠ VF → ((t.reg x).toNat : Int) = (((s.reg x).toNat : Int) - ((s.reg y).toNat : Int)) % 256) ∧
      t.reg VF = (if (s.reg x).toNat ≥ (s.reg y).toNat then 1 else 0) ∧ Frame [x, VF] [] s t) ∧
    (∃ t, exec (.subn x y) s = .next t ∧
      (x ≠ VF → ((t.reg x).toNat : Int) = (((s.reg y).toNat : Int) - ((s.reg x).toNat : Int)) % 256) ∧
      t.reg VF = (if (s.reg y).toNat ≥ (s.reg x).toNat then 1 else 0) ∧ Frame [x, VF] [] s t)

/-- 40_arith_logic.md section 2 (SHR, SHL). Both complete in every state: `V[x]` divided by 2 (times 2, modulo 256) in
`V[x]`, the old bit 0 (bit 7) in `VF`; the `y` field makes no difference. With `x = F` the flag is what `VF` holds (the
order of writes is the spec's decision D9, log entry 14). -/
def Obligations.ShiftsByOneIgnoreY : Prop :=
  ∀ (x y : Reg) (s : State),
    (∃ t, exec (.shr x y) s = .next t ∧ (x ≠ VF → (t.reg x).toNat = (s.reg x).toNat / 2) ∧
      (t.reg VF).toNat = (s.reg x).toNat % 2 ∧ Frame [x, VF] [] s t ∧ ∀ y', exec (.shr x y') s = .next t) ∧
    (∃ t, exec (.shl x y) s = .next t ∧ (x ≠ VF → (t.reg x).toNat = ((s.reg x).toNat * 2) % 256) ∧
      (t.reg VF).toNat = (s.reg x).toNat / 128 ∧ Frame [x, VF] [] s t ∧ ∀ y', exec (.shl x y') s = .next t)

/-- 40_arith_logic.md section 2 (RND). RND completes in every state: `V[x]` is the draw AND `nn`, so a bit that is 0
in `nn` is 0; the draw is the free value of the model's draw counter, which moves on (log entry 2, the model's
choice); nothing else changes. It holds for every value the draw may have. -/
def Obligations.RndMasksFreshDraw : Prop :=
  ∀ (x : Reg) (nn : Byte) (s : State), ∃ t, exec (.rnd x nn) s = .next t ∧
    t.reg x = Config.randByte s.draws &&& nn ∧ (∀ k, nn.getLsbD k = false → (t.reg x).getLsbD k = false) ∧
    t.draws = s.draws + 1 ∧ Frame [x] [.draws] s t

/-! ## Control flow (41_control_flow.md) -/

/-- R122. JP completes in every state: `pc` is `nnn`, nothing else changes. -/
def Obligations.JpGoesToAddress : Prop :=
  ∀ (nnn : Addr12) (s : State), ∃ t, exec (.jp nnn) s = .next t ∧ t.pc.toNat = nnn.toNat ∧ Frame [] [.pc] s t

/-- 41_control_flow.md section 2 (CALL; the slot order is the spec's decision D5). With a free slot CALL completes:
the return address, the `pc` its handler sees, goes to `STK[SP]`, `SP` goes up by 1, `pc` is `nnn`; the other slots
and everything else stay. -/
def Obligations.CallPushesReturnAddress : Prop :=
  ∀ (nnn : Addr12) (s : State) (k : Fin 16), s.sp.toNat = k.val →
    ∃ t, exec (.call nnn) s = .next t ∧ t.slot k = s.pc ∧ (∀ j, j ≠ k → t.slot j = s.slot j) ∧
      t.sp.toNat = s.sp.toNat + 1 ∧ t.pc.toNat = nnn.toNat ∧ Frame [] [.stack, .pc] s t

/-- 41_control_flow.md section 2 (RET; the slot order is the spec's decision D5). With `SP` 1 to 16 RET completes:
`pc` is the popped slot, all 16 bits of it, `SP` goes down by 1; every slot keeps its content and everything else
stays. -/
def Obligations.RetPopsReturnAddress : Prop :=
  ∀ (s : State) (k : Fin 16), s.sp.toNat = k.val + 1 →
    ∃ t, exec .ret s = .next t ∧ t.pc = s.slot k ∧ t.sp.toNat = k.val ∧ (∀ j, t.slot j = s.slot j) ∧
      Frame [] [.stack, .pc] s t

/-- 60_exceptions.md sections 1 and 2 (the spec's decision D6). CALL with all 16 slots in use latches `StackOverflow`,
RET with none latches `StackUnderflow`, each as a next state (log entry 3), and neither changes anything else. With
`SP` above 16, which no run reaches, there is no slot, and both stop by a fault of the model's own (log entry 6, the
model's choice). -/
def Obligations.StackLimitsFault : Prop :=
  ∀ (nnn : Addr12) (s : State),
    (s.sp.toNat = 16 → ∃ t, exec (.call nnn) s = .next t ∧ t.fault = some .stackOverflow ∧ Frame [] [.fault] s t) ∧
    (s.sp.toNat = 0 → ∃ t, exec .ret s = .next t ∧ t.fault = some .stackUnderflow ∧ Frame [] [.fault] s t) ∧
    (16 < s.sp.toNat →
      exec (.call nnn) s = .fault (.noStackSlot s.sp) ∧ exec .ret s = .fault (.noStackSlot s.sp))

/-- 41_control_flow.md section 2. A subroutine comes back: after a CALL with a free slot, from any state that has the
same `SP` and slots as the CALL left, RET completes at the instruction after the CALL, with the `SP` from before. -/
def Obligations.CallThenRetComesBack : Prop :=
  ∀ (nnn : Addr12) (s t u : State), s.sp.toNat < 16 → exec (.call nnn) s = .next t →
    u.sp = t.sp → (∀ k, u.slot k = t.slot k) →
    ∃ w, exec .ret u = .next w ∧ w.pc = s.pc ∧ w.sp = s.sp ∧ ∀ k, k.val < s.sp.toNat → w.slot k = s.slot k

/-- R125, R126. SEI and SNEI complete in every state: `pc` goes a further 2 on, modulo 65536, exactly when `V[x]`
equals (differs from) `nn`; nothing else changes. -/
def Obligations.ImmediateSkipsCompare : Prop :=
  ∀ (x : Reg) (nn : Byte) (s : State),
    (∃ t, exec (.sei x nn) s = .next t ∧ t.pc = (if s.reg x = nn then s.pc + 2 else s.pc) ∧ Frame [] [.pc] s t) ∧
    (∃ t, exec (.snei x nn) s = .next t ∧ t.pc = (if s.reg x = nn then s.pc else s.pc + 2) ∧ Frame [] [.pc] s t)

/-- 41_control_flow.md section 3 (SER, SNER). Both complete in every state: `pc` goes a further 2 on exactly when the
two registers are equal (differ), so that with `x = y` SER always skips and SNER never; nothing else changes. -/
def Obligations.RegisterSkipsCompare : Prop :=
  ∀ (x y : Reg) (s : State),
    (∃ t, exec (.ser x y) s = .next t ∧ t.pc = (if s.reg x = s.reg y then s.pc + 2 else s.pc) ∧ Frame [] [.pc] s t) ∧
    (∃ t, exec (.sner x y) s = .next t ∧ t.pc = (if s.reg x = s.reg y then s.pc else s.pc + 2) ∧ Frame [] [.pc] s t) ∧
    (∃ t, exec (.ser x x) s = .next t ∧ t.pc = s.pc + 2) ∧ (∃ t, exec (.sner x x) s = .next t ∧ t.pc = s.pc)

/-- 41_control_flow.md section 2 (JPV0; keeping all 16 bits is the spec's decision D27). JPV0 completes in every
state: `pc` is `nnn + V[0]`, at most 0x10FE, nothing else changes. -/
def Obligations.Jpv0AddsOffset : Prop :=
  ∀ (nnn : Addr12) (s : State), ∃ t, exec (.jpv0 nnn) s = .next t ∧ t.pc.toNat = nnn.toNat + (s.reg 0).toNat ∧
    t.pc.toNat ≤ 0x10FE ∧ Frame [] [.pc] s t

/-! ## Index register and memory (42_memory_bcd.md, 20_memory.md) -/

/-- R141. LDX completes in every state: `I` is `nnn`, nothing else changes. -/
def Obligations.LdxLoadsIndex : Prop :=
  ∀ (nnn : Addr12) (s : State), ∃ t, exec (.ldx nnn) s = .next t ∧ t.i.toNat = nnn.toNat ∧ Frame [] [.index] s t

/-- R142. ADDX completes in every state: `I + V[x]` modulo 65536, `VF` and everything else unchanged. -/
def Obligations.AddxWrapsAtSixteenBits : Prop :=
  ∀ (x : Reg) (s : State), ∃ t, exec (.addx x) s = .next t ∧
    t.i.toNat = (s.i.toNat + (s.reg x).toNat) % 65536 ∧ Frame [] [.index] s t

/-- 42_memory_bcd.md section 2 (FONT; taking the formula for every `V[x]`, in 16 bits, is the spec's decision D31).
FONT completes in every state: `I` is `0x50 + 5 * V[x]`, nothing else changes. -/
def Obligations.FontPointsAtGlyph : Prop :=
  ∀ (x : Reg) (s : State), ∃ t, exec (.font x) s = .next t ∧ t.i.toNat = 0x50 + 5 * (s.reg x).toNat ∧
    Frame [] [.index] s t

/-- 42_memory_bcd.md section 2 (BCD; the range rule is the spec's decision D7, `I` unchanged its decision D20). With
its three bytes in memory BCD completes: hundreds, tens and ones digit of `V[x]` at `I`, `I + 1`, `I + 2`, every other
byte and everything else unchanged. -/
def Obligations.BcdStoresDigits : Prop :=
  ∀ (x : Reg) (s : State), Memory.wf s.mem = true → s.i.toNat + 2 ≤ 0xFFF →
    ∃ t, exec (.bcd x) s = .next t ∧
      (t.byte s.i.toNat).toNat = (s.reg x).toNat / 100 ∧
      (t.byte (s.i.toNat + 1)).toNat = (s.reg x).toNat / 10 % 10 ∧
      (t.byte (s.i.toNat + 2)).toNat = (s.reg x).toNat % 10 ∧
      MemKeptOutside s.i.toNat 3 s t ∧ Frame [] [.memory] s t

/-- 42_memory_bcd.md section 2 (STM; the range rule is the spec's decision D7, `I` unchanged its decision D20). With
its bytes in memory STM completes: `V[k]` at `I + k` for `k` 0 to `x`, every other byte and everything else
unchanged. -/
def Obligations.StmStoresRegisters : Prop :=
  ∀ (x : Reg) (s : State), Memory.wf s.mem = true → s.i.toNat + x.val ≤ 0xFFF →
    ∃ t, exec (.stm x) s = .next t ∧ (∀ k : Reg, k ≤ x → t.byte (s.i.toNat + k.val) = s.reg k) ∧
      MemKeptOutside s.i.toNat (x.val + 1) s t ∧ Frame [] [.memory] s t

/-- 42_memory_bcd.md section 2 (LDM; the range rule is the spec's decision D7, `I` unchanged its decision D20). With
its bytes in memory LDM completes: `V[k]` from `I + k` for `k` 0 to `x`, the registers above `x` and everything else
unchanged. -/
def Obligations.LdmLoadsRegisters : Prop :=
  ∀ (x : Reg) (s : State), s.i.toNat + x.val ≤ 0xFFF →
    ∃ t, exec (.ldm x) s = .next t ∧ (∀ k : Reg, k ≤ x → t.reg k = s.byte (s.i.toNat + k.val)) ∧
      Frame (regsTo x) [] s t

/-- 42_memory_bcd.md section 2 (the source's round-trip property). STM at `I`, then LDM from the same `I` in any state
with the same memory, whatever happened to the registers between, restores `V[0]` to `V[x]`. -/
def Obligations.StmThenLdmRestores : Prop :=
  ∀ (x : Reg) (s t u : State), Memory.wf s.mem = true → s.i.toNat + x.val ≤ 0xFFF → exec (.stm x) s = .next t →
    u.i = s.i → (∀ a, u.byte a = t.byte a) →
    ∃ w, exec (.ldm x) u = .next w ∧ ∀ k : Reg, k ≤ x → w.reg k = s.reg k

/-- 20_memory.md section 4 and 60_exceptions.md section 1 (the spec's decision D7). DRW, BCD, STM and LDM with a data
address above 0xFFF latch `MemoryOutOfRange` with the lowest such address, `max(I, 0x1000)`, and change nothing
else. Faulting is a next state (log entry 3). -/
def Obligations.OutOfRangeFaultsBeforeWriting : Prop :=
  ∀ (x y : Reg) (n : Nat) (s : State),
    let faults (i : Instr) : Prop :=
      ∃ t, exec i s = .next t ∧ t.fault = some (.memoryOutOfRange (max s.i.toNat 0x1000)) ∧ Frame [] [.fault] s t
    (0 < n → 0xFFF < s.i.toNat + n - 1 → faults (.drw x y n)) ∧
    (0xFFF < s.i.toNat + 2 → faults (.bcd x)) ∧
    (0xFFF < s.i.toNat + x.val → faults (.stm x)) ∧
    (0xFFF < s.i.toNat + x.val → faults (.ldm x))

/-- 20_memory.md section 7. A store is seen by the very next fetch: after an STM of at least two registers, the word
fetched at `I` is `V[0]` then `V[1]`. -/
def Obligations.StoreSeenByNextFetch : Prop :=
  ∀ (x : Reg) (s t : State), Memory.wf s.mem = true → 1 ≤ x.val → s.i.toNat + x.val ≤ 0xFFF →
    exec (.stm x) s = .next t →
    (t.setPc s.i).fetchWord.toNat = 256 * (s.reg 0).toNat + (s.reg 1).toNat

/-! ## Display (43_display.md) -/

/-- R161. CLS completes in every state: all 2048 pixels off, nothing else changes (`VF` included). -/
def Obligations.ClsTurnsEveryPixelOff : Prop :=
  ∀ s : State, ∃ t, exec .cls s = .next t ∧ (∀ xx yy, t.pixel xx yy = false) ∧ Frame [] [.screen] s t

/-- 43_display.md sections on DRW (bit order, collision, range and `n = 0` are the spec's decisions D10, D11, D7,
D30). With its rows in memory DRW completes: exactly the pixels the sprite covers are toggled, both axes wrapping, and
`VF` is 1 if a covered pixel was lit, else 0; nothing else changes. -/
def Obligations.DrwXorsSprite : Prop :=
  ∀ (x y : Reg) (n : Nat) (s : State), n ≤ 15 → spriteInMemory s n →
    ∃ t, exec (.drw x y n) s = .next t ∧
      (∀ xx yy, t.pixel xx yy ≠ s.pixel xx yy ↔ spriteCovers s (s.reg x) (s.reg y) n xx yy) ∧
      ((∃ xx yy, spriteCovers s (s.reg x) (s.reg y) n xx yy ∧ s.pixel xx yy = true) → t.reg VF = 1) ∧
      ((¬ ∃ xx yy, spriteCovers s (s.reg x) (s.reg y) n xx yy ∧ s.pixel xx yy = true) → t.reg VF = 0) ∧
      Frame [VF] [.screen] s t

/-- 43_display.md, DRW's example. The same sprite drawn twice at the same place restores the screen, for positions
held in registers other than `VF` (which the first draw overwrites). -/
def Obligations.DrwTwiceRestoresScreen : Prop :=
  ∀ (x y : Reg) (n : Nat) (s t : State), n ≤ 15 → x ≠ VF → y ≠ VF → spriteInMemory s n →
    exec (.drw x y n) s = .next t →
    ∃ u, exec (.drw x y n) t = .next u ∧ ∀ xx yy, u.pixel xx yy = s.pixel xx yy

/-! ## Keypad and timers (44_input_timers.md) -/

/-- 44_input_timers.md section 1 (the range of the index is the spec's decision D8). With `V[x]` a key's number SKP
and SKNP complete: `pc` goes a further 2 on exactly when that key is (is not) pressed; nothing else changes, the key
included. -/
def Obligations.KeySkipsTestTheKey : Prop :=
  ∀ (x : Reg) (k : Key) (s : State), (s.reg x).toNat = k.val →
    (∃ t, exec (.skp x) s = .next t ∧ t.pc = (if s.pressed k = true then s.pc + 2 else s.pc) ∧ Frame [] [.pc] s t) ∧
    (∃ t, exec (.sknp x) s = .next t ∧ t.pc = (if s.pressed k = true then s.pc else s.pc + 2) ∧ Frame [] [.pc] s t)

/-- 44_input_timers.md section 1 (the spec's decision D8). With `V[x]` above 15 SKP and SKNP latch `BadKeyIndex` with
that value and change nothing else. Faulting is a next state (log entry 3). -/
def Obligations.BadKeyIndexFaults : Prop :=
  ∀ (x : Reg) (s : State), 15 < (s.reg x).toNat →
    (∃ t, exec (.skp x) s = .next t ∧ t.fault = some (.badKeyIndex (s.reg x)) ∧ Frame [] [.fault] s t) ∧
    (∃ t, exec (.sknp x) s = .next t ∧ t.fault = some (.badKeyIndex (s.reg x)) ∧ Frame [] [.fault] s t)

/-- 44_input_timers.md section 2 (WAITK; level sampling and the completing step are the spec's decision D14, log
entry 17). WAITK completes in every state. With a key pressed, `V[x]` is the least pressed key, the key-wait state is
Idle and `pc` stays at the following instruction; with none, the state is WaitingForKey and `pc` goes back by 2, modulo
65536. Nothing else changes. -/
def Obligations.WaitkTakesLowestKeyOrWaits : Prop :=
  ∀ (x : Reg) (s : State),
    (∀ k : Key, s.pressed k = true → (∀ j, j < k → s.pressed j = false) →
      ∃ t, exec (.waitk x) s = .next t ∧ (t.reg x).toNat = k.val ∧ t.kw = .idle ∧ Frame [x] [.keyWait] s t) ∧
    ((∀ k, s.pressed k = false) →
      ∃ t, exec (.waitk x) s = .next t ∧ t.kw = .waitingForKey ∧ t.pc = s.pc - 2 ∧ Frame [] [.keyWait, .pc] s t)

/-- 44_input_timers.md section 2 (the source's first key-wait property; the reading of the waiting step is the spec's
decision D14). With no key pressed and `pc` at a WAITK, any number of steps, at least one, leaves `pc` there and
changes nothing but the key-wait state, which is WaitingForKey. -/
def Obligations.WaitkStallsUntilKey : Prop :=
  ∀ (x : Reg) (s : State) (n : Nat), s.fault = none → decode s.fetchWord = .instr (.waitk x) →
    (∀ k, s.pressed k = false) →
    ∃ t : State, Sys2Proof.core.run (n + 1) s = .next t ∧ t.kw = .waitingForKey ∧ Frame [] [.keyWait] s t

/-- R176, R177, R178. LDDT, STDT and STST complete in every state: `V[x]` is `DT`, `DT` is `V[x]`, `ST` is `V[x]`, and
nothing else changes; in particular neither timer changes with the other. -/
def Obligations.TimerAccessMovesBytes : Prop :=
  ∀ (x : Reg) (s : State),
    (∃ t, exec (.lddt x) s = .next t ∧ t.reg x = s.dt ∧ Frame [x] [] s t) ∧
    (∃ t, exec (.stdt x) s = .next t ∧ t.dt = s.reg x ∧ Frame [] [.delay] s t) ∧
    (∃ t, exec (.stst x) s = .next t ∧ t.st = s.reg x ∧ Frame [] [.sound] s t)

/-! ## Encoding (30_encoding.md) -/

/-- R71. The six fields of a word, as numbers: family, `x`, `y`, `n` are its hexadecimal digits, `nn` is `y ++ n`,
`nnn` is `x ++ y ++ n`. -/
def Obligations.FieldsAreBitExtractions : Prop :=
  ∀ w : Word,
    (family w).toNat = w.toNat / 4096 ∧ (fieldX w).toNat = w.toNat / 256 % 16 ∧
    (fieldY w).toNat = w.toNat / 16 % 16 ∧ (fieldN w).toNat = w.toNat % 16 ∧
    fieldNN w = fieldY w ++ fieldN w ∧ fieldNNN w = fieldX w ++ (fieldY w ++ fieldN w)

/-- 30_encoding.md section 6 and 95_test_vectors.md section 2.1. Words written out from the spec's examples decode to
what the spec says. -/
def Obligations.SpecWordsDecode : Prop :=
  decode 0x632A = .instr (.ldi 3 0x2A) ∧ decode 0x8AB4 = .instr (.add 10 11) ∧
  decode 0xD015 = .instr (.drw 0 1 5) ∧ decode 0x12F0 = .instr (.jp 0x2F0) ∧
  decode 0xE7A1 = .instr (.sknp 7) ∧ decode 0xFF65 = .instr (.ldm 15) ∧
  decode 0x8AB8 = .unknown 0x8AB8 ∧ decode 0x5121 = .unknown 0x5121 ∧
  decode 0x01E0 = .unknown 0x01E0 ∧ decode 0x0000 = .unknown 0x0000

/-- 30_encoding.md section 3. Decode and encode agree: the word of every well-formed instruction, with every operand
at every value its field admits, decodes to that instruction. -/
def Obligations.DecodeOfEncode : Prop :=
  ∀ i : Instr, i.wellFormed = true → decode (encode i) = .instr i

/-- 30_encoding.md section 3. No word is lost: a word that decodes to an instruction is that instruction's word, and
the instruction is well formed. -/
def Obligations.EncodeOfDecode : Prop :=
  ∀ (w : Word) (i : Instr), decode w = .instr i → encode i = w ∧ i.wellFormed = true

/-- 30_encoding.md sections 3 and 4 (exact matching is the spec's decision D1). The dispatch and the opcode map say the
same: a word decodes to an instruction of a row exactly when `w AND mask = match` for that row, at most one row
matches, and the verdict is *unknown*, with the word itself, exactly when none does. -/
def Obligations.DispatchIsTheOpcodeMap : Prop :=
  ∀ w : Word,
    (∀ i, decode w = .instr i → i.row ∈ opcodeMap ∧ i.row.hits w = true) ∧
    (∀ r ∈ opcodeMap, r.hits w = true → ∃ i, decode w = .instr i ∧ i.row = r) ∧
    ((∀ r ∈ opcodeMap, r.hits w = false) ↔ decode w = .unknown w)

/-! ## The step, the fault, reset (70_reset_and_hazards.md, 60_exceptions.md) -/

/-- 20_memory.md sections 2 and 1 (reducing both bytes modulo 4096 is the spec's decision D3). The word a step fetches
is big-endian: the byte at `pc mod 4096`, then the byte at `(pc + 1) mod 4096`, for every `pc`, odd ones too. -/
def Obligations.FetchIsBigEndianAndWraps : Prop :=
  ∀ s : State, s.fetchWord.toNat =
    256 * (s.byte (s.pc.toNat % 4096)).toNat + (s.byte ((s.pc.toNat + 1) % 4096)).toNat

/-- 70_reset_and_hazards.md section 3. A step runs the decoded instruction: when the core is not halted and the word
at `pc` decodes to `i`, the step is `exec i` in the same state with `pc` advanced by 2. -/
def Obligations.StepRunsDecodedInstruction : Prop :=
  ∀ (s : State) (i : Instr), s.fault = none → decode s.fetchWord = .instr i → step s = exec i (s.setPc (s.pc + 2))

/-- 60_exceptions.md sections 1 and 2 (the state after a fault is the spec's decision D16). A word that is no
instruction latches `UnknownOpcode` with the whole fetched word; `pc` has moved on by 2 and nothing else changes.
Faulting is a next state (log entry 3). -/
def Obligations.UnknownWordFaults : Prop :=
  ∀ s : State, s.fault = none → (∀ i, decode s.fetchWord ≠ .instr i) →
    ∃ t, step s = .next t ∧ t.fault = some (.unknownOpcode s.fetchWord) ∧ t.pc = s.pc + 2 ∧
      Frame [] [.pc, .fault] s t

/-- 60_exceptions.md section 2 (the spec's decision D16; that the halted step is a next state is log entry 4). Once
halted, always halted: any number of steps changes nothing, and each returns the same fault to the host. -/
def Obligations.HaltedCoreStaysAsItIs : Prop :=
  ∀ (s : State) (f : CoreFault) (n : Nat), s.fault = some f →
    Sys2Proof.core.run n s = .next s ∧ hostCall .step s = .next (.fault f, s)

/-- 60_exceptions.md section 2. Faults are precise: a step that latches a fault leaves the state it found with `pc`
advanced by 2 and `FAULT` set, and changes nothing else (the spec's decision D16; faulting is a next state: log
entry 3). -/
def Obligations.FaultsArePrecise : Prop :=
  ∀ (s t : State) (f : CoreFault), s.fault = none → step s = .next t → t.fault = some f →
    t = (s.setPc (s.pc + 2)).setFault (some f)

/-- 10_state.md section 5 and 70_reset_and_hazards.md section 3. The table of how each instruction leaves `pc` agrees
with the step algorithm: a step that runs `i` without a fault ends with `pc` as the table says, and one that faults
with `pc` advanced by 2. -/
def Obligations.PcFollowsTheTable : Prop :=
  ∀ (s t : State) (i : Instr), s.fault = none → decode s.fetchWord = .instr i → step s = .next t →
    t.pc = if t.fault = none then pcAfter i s else s.pc + 2

/-- 60_exceptions.md section 7 (`step` never blocks). In every state with `SP` 0 to 16 a step answers a next state. A
step that latches a fault, and a step of a halted core, count as next states here (log entries 3 and 4, the model's
reading), so this does not say that no fault halts the core: by 70_reset_and_hazards.md section 6 the core stops by a
fault, and only so. It says that the model's own stop, `noStackSlot` (log entry 6), needs `SP` above 16. -/
def Obligations.StepNeverStops : Prop :=
  ∀ s : State, s.sp.toNat ≤ 16 → ∃ t, step s = .next t

/-- 30_encoding.md section 5 (the column *Writes*), 20_memory.md section 1 and 60_exceptions.md section 1. The frame of
every instruction: it changes only the registers and parts the spec says it writes, and `FAULT` only where it can
fault; an instruction that stores changes only the bytes it stores to. -/
def Obligations.InstructionsWriteOnlyTheirTargets : Prop :=
  ∀ (i : Instr) (s t : State), exec i s = .next t →
    Frame (writtenRegs i) (writtenParts i) s t ∧
    (Memory.wf s.mem = true → MemKeptOutside (storedBytes i s).1 (storedBytes i s).2 s t)

/-- 10_state.md section 3. `VF` is written as a flag by exactly six instructions: any other instruction changes it only
if it writes `V[F]` as a register its own `x` field names (or, for LDM, reaches), and the six leave 0 or 1 in it
whenever they do not fault. -/
def Obligations.FlagWrittenBySixOnly : Prop :=
  ∀ (i : Instr) (s t : State), exec i s = .next t →
    (writesFlag i = false → VF ∉ writtenRegs i → t.reg VF = s.reg VF) ∧
    (writesFlag i = true → s.fault = none → t.fault = none → t.reg VF = 0 ∨ t.reg VF = 1)

/-- 10_state.md sections 7 and 8. No instruction reads `ST` or the key-wait state: two states that differ in nothing
else take steps to states that differ in nothing else. For RND this compares two steps that take the SAME draw: the two
states have the same draw counter, and the draw is a function of that counter (log entry 2, the model's choice). Equal
draws are no fact of the hardware: by 40_arith_logic.md section 2 (RND) two executions need not agree. A faulting and a
halted step count as next states (log entries 3 and 4). -/
def Obligations.StepIgnoresSoundTimerAndKeyWait : Prop :=
  ∀ (s t : State) (a : Byte) (k : KeyWait), step s = .next t →
    ∃ u, step ((s.setSt a).setKw k) = .next u ∧ (u.setSt t.st).setKw t.kw = t

/-- 70_reset_and_hazards.md section 1 and 10_state.md section 15, the source's part: after reset memory is zero but for
the font, and the first instruction is fetched from 0x200 and 0x201. -/
def Obligations.ResetMemoryAndEntryPoint : Prop :=
  (∀ a, a < 4096 → (a < 0x050 ∨ 0x0A0 ≤ a) → State.reset.byte a = 0) ∧
  (∀ k, k < 80 → State.reset.byte (0x050 + k) = Config.font k) ∧
  State.reset.pc = 0x0200 ∧
  ∀ s : State, s.pc = State.reset.pc → s.fetchWord.toNat = 256 * (s.byte 0x200).toNat + (s.byte 0x201).toNat

/-- 10_state.md section 15 (the spec's decision D12, log entry 5). After reset every register, slot, timer, key and
pixel is zero or off, the key-wait state is Idle and there is no fault. -/
def Obligations.ResetDecidedValues : Prop :=
  (∀ r, State.reset.reg r = 0) ∧ State.reset.i = 0 ∧ State.reset.sp = 0 ∧ (∀ k, State.reset.slot k = 0) ∧
  State.reset.dt = 0 ∧ State.reset.st = 0 ∧ (∀ k, State.reset.pressed k = false) ∧ State.reset.kw = .idle ∧
  (∀ xx yy, State.reset.pixel xx yy = false) ∧ State.reset.fault = none

/-- 10_state.md sections 14 and 15. The invariant (memory in canonical form, `SP` 0 to 16, a legal latched fault) holds
after reset. The canonical form is the model's own representation of memory (log entry 19, the model's choice); `SP = 0`
and no latched fault after reset are the spec's decision D12 (log entry 5). -/
def Obligations.ResetMeetsInvariant : Prop := State.reset.inv = true

/-- 10_state.md section 14 and 60_exceptions.md section 1. Every step keeps the invariant: `SP` stays 0 to 16 (the
spec's own derived clause), a latched fault carries a legal payload (the faults of the spec's decisions D6 to D8 among
them, log entries 11 to 13), and memory stays in canonical form. The last clause is no statement of the spec: the
canonical form is the model's own representation of memory (log entry 19, the model's choice). That a step that
faults, or finds the core halted, is a next state is log entries 3 and 4 (the model's reading). -/
def Obligations.StepKeepsInvariant : Prop :=
  ∀ s t : State, s.inv = true → step s = .next t → t.inv = true

/-- 70_reset_and_hazards.md section 3 (the machine as a transition system). From a state with the invariant, every
schedule of host operations, steps among them, runs to its end: each operation gets a reply, and the invariant holds at
the end. A fault halts the core, and the schedule goes on: a step that faults or finds the core halted is a next state
whose reply is the fault (log entries 3 and 4, the model's reading), and the other operations keep their meaning on a
halted core (the spec's decision D25). Refusing bad arguments and loading between any two steps are the spec's decisions
D24 and D26 (log entry 20). The invariant's canonical form of memory is the model's own representation (log entry 19,
the model's choice). -/
def Obligations.EveryScheduleKeepsInvariant : Prop :=
  ∀ (ops : List HostOp) (s : State), s.inv = true →
    ∃ rs t, runHost ops s = .next (rs, t) ∧ rs.length = ops.length ∧ t.inv = true

/-- 70_reset_and_hazards.md section 6 (the spec's convention D23). A finished run: `pc mod 4096` holds a JP to itself
and the core is not halted. A step then changes nothing but that `pc` is reduced modulo 4096, and from there any
number of steps changes nothing at all. -/
def Obligations.FinishedRunIsFixed : Prop :=
  ∀ (s : State) (n : Nat), s.finished = true →
    ∃ t : State, Sys2Proof.core.run (n + 1) s = .next t ∧ t.pc.toNat = s.pc.toNat % 4096 ∧ Frame [] [.pc] s t

/-- The model's placing of an instruction (log entry 7): the step after `withFetchWord` runs exactly the instruction
that the decoder reads from the word. -/
def Obligations.PlacedWordRunsNext : Prop :=
  ∀ (s : State) (w : Nat) (i : Instr), Memory.wf s.mem = true → decodeTableWord 16 w = some i →
    step (s.withFetchWord 16 w) = exec i ((s.withFetchWord 16 w).setPc (s.pc + 2))

/-! ## The host interface (60_exceptions.md) -/

/-- R225. `tick_timers()` takes at most 1 off each timer, floored at zero, and changes nothing else. -/
def Obligations.TickTakesOneOffEachTimer : Prop :=
  ∀ s : State, ∃ t, hostCall .tickTimers s = .next (.done, t) ∧ t.dt.toNat = s.dt.toNat - 1 ∧
    t.st.toNat = s.st.toNat - 1 ∧ Frame [] [.delay, .sound] s t

/-- 60_exceptions.md section 6. After `n` ticks each timer is down by exactly `n`, never below zero, and nothing else
has changed. -/
def Obligations.TicksCountDownToZero : Prop :=
  ∀ (n : Nat) (s : State), ∃ rs t, runHost (List.replicate n .tickTimers) s = .next (rs, t) ∧
    t.dt.toNat = s.dt.toNat - n ∧ t.st.toNat = s.st.toNat - n ∧ Frame [] [.delay, .sound] s t

/-- 60_exceptions.md section 7 (refusing an index of 16 or more is the spec's decision D24). `set_key` records the
level of its key and changes nothing else; a bad index is refused without change. -/
def Obligations.SetKeyRecordsLevel : Prop :=
  ∀ (s : State) (index : Nat) (b : Bool),
    (∀ k : Key, index = k.val → ∃ t, hostCall (.setKey index b) s = .next (.done, t) ∧ t.pressed k = b ∧
      (∀ j, j ≠ k → t.pressed j = s.pressed j) ∧ Frame [] [.keys] s t) ∧
    (16 ≤ index → hostCall (.setKey index b) s = .next (.refused, s))

/-- 60_exceptions.md section 7 (when they may be called, and refusing a wrong length, are the spec's decisions D24 and
D26). `load_program` writes its bytes from 0x200 upward, or fails with `LoadError` and no change when they exceed
memory; `load_font` writes exactly 80 bytes at 0x050, or is refused without change. Neither changes anything else. -/
def Obligations.LoadersWriteOnlyTheirBytes : Prop :=
  ∀ (s : State) (bytes : List Byte), Memory.wf s.mem = true →
    (bytes.length ≤ 3584 → ∃ t, hostCall (.loadProgram bytes) s = .next (.done, t) ∧
      (∀ k (h : k < bytes.length), t.byte (0x200 + k) = bytes[k]) ∧
      MemKeptOutside 0x200 bytes.length s t ∧ Frame [] [.memory] s t) ∧
    (3584 < bytes.length → hostCall (.loadProgram bytes) s = .next (.loadError, s)) ∧
    (bytes.length = 80 → ∃ t, hostCall (.loadFont bytes) s = .next (.done, t) ∧
      (∀ k (h : k < bytes.length), t.byte (0x050 + k) = bytes[k]) ∧
      MemKeptOutside 0x050 80 s t ∧ Frame [] [.memory] s t) ∧
    (bytes.length ≠ 80 → hostCall (.loadFont bytes) s = .next (.refused, s))
end

