-- ==== Sys2Proof/Laws/Flags.lean ====
section
/-! SUPPORT. What the results and flags of Machine/Flags.lean are as numbers. -/

namespace Sys2Proof.Machine

theorem flagByte_true : flagByte true = 1 := rfl

theorem flagByte_false : flagByte false = 0 := rfl

/-- A flag is 0 or 1. -/
theorem flagByte_zero_or_one (f : Bool) : flagByte f = 0 ∨ flagByte f = 1 := by cases f <;> simp [flagByte]

@[simp] theorem addByte_toNat (a b : Byte) : (addByte a b).toNat = (a.toNat + b.toNat) % 256 := by
  simp [addByte]

@[simp] theorem subByte_toNat (a b : Byte) : ((subByte a b).toNat : Int) = ((a.toNat : Int) - b.toNat) % 256 := by
  have := a.isLt
  have := b.isLt
  simp only [subByte, BitVec.toNat_ofInt]
  omega

@[simp] theorem shrByte_toNat (a : Byte) : (shrByte a).toNat = a.toNat / 2 := by
  have := a.isLt
  simp only [shrByte, BitVec.toNat_ofNat]
  omega

@[simp] theorem shlByte_toNat (a : Byte) : (shlByte a).toNat = a.toNat * 2 % 256 := by
  simp [shlByte]

end Sys2Proof.Machine
end

