-- ==== Sys2Proof/Laws/Memory.lean ====
section
/-! SUPPORT. The laws of memory: a read after a write, and the canonical form kept by every operation. -/

namespace Sys2Proof.Machine

/-- A canonical list whose entries start at `lo` reads as the reset contents below `lo`. -/
theorem Memory.get_below {m : Memory} {lo a : Nat} (h : Memory.wfFrom lo m = true) (ha : a < lo) :
    Memory.get m a = resetByte a := by
  induction m generalizing lo with
  | nil => rfl
  | cons e rest ih =>
    obtain ⟨c, v⟩ := e
    simp only [Memory.wfFrom, Bool.and_eq_true, decide_eq_true_eq] at h
    have hne : a ≠ c := by omega
    simp only [Memory.get, if_neg hne]
    exact ih h.2 (by omega)

/-- The form holds from a lower start too. -/
theorem Memory.wfFrom_mono {m : Memory} {lo lo' : Nat} (hl : lo' ≤ lo) (h : Memory.wfFrom lo m = true) :
    Memory.wfFrom lo' m = true := by
  cases m with
  | nil => rfl
  | cons e rest =>
    obtain ⟨c, v⟩ := e
    simp only [Memory.wfFrom, Bool.and_eq_true, decide_eq_true_eq] at h ⊢
    exact ⟨⟨⟨by omega, h.1.1.2⟩, h.1.2⟩, h.2⟩

/-- `put` keeps the canonical form. -/
theorem Memory.wfFrom_put {m : Memory} {lo a : Nat} {b : Byte} (h : Memory.wfFrom lo m = true) (hl : lo ≤ a)
    (ha : a < Config.memSize) : Memory.wfFrom lo (Memory.put m a b) = true := by
  induction m generalizing lo with
  | nil => by_cases hb : b = resetByte a <;> simp [Memory.put, Memory.wfFrom, hb, hl, ha]
  | cons e rest ih =>
    obtain ⟨c, v⟩ := e
    have h0 := h
    simp only [Memory.wfFrom, Bool.and_eq_true, decide_eq_true_eq, bne_iff_ne] at h
    obtain ⟨⟨⟨h1, h2⟩, h3⟩, h4⟩ := h
    simp only [Memory.put]
    split
    · split
      · exact h0
      · simp only [Memory.wfFrom, Bool.and_eq_true, decide_eq_true_eq, bne_iff_ne]
        exact ⟨⟨⟨hl, ha⟩, by assumption⟩, ⟨⟨by omega, h2⟩, h3⟩, h4⟩
    · split
      · split
        · exact Memory.wfFrom_mono (by omega) h4
        · simp only [Memory.wfFrom, Bool.and_eq_true, decide_eq_true_eq, bne_iff_ne]
          subst_vars
          exact ⟨⟨⟨hl, ha⟩, by assumption⟩, h4⟩
      · simp only [Memory.wfFrom, Bool.and_eq_true, decide_eq_true_eq, bne_iff_ne]
        exact ⟨⟨⟨h1, h2⟩, h3⟩, ih h4 (by omega)⟩

/-- A read after `put`: the byte written at its address, the old byte everywhere else. -/
theorem Memory.get_put {m : Memory} {lo a : Nat} {b : Byte} (h : Memory.wfFrom lo m = true) (c : Nat) :
    Memory.get (Memory.put m a b) c = if c = a then b else Memory.get m c := by
  induction m generalizing lo with
  | nil =>
    by_cases hb : b = resetByte a <;> by_cases hc : c = a <;> simp [Memory.put, Memory.get, hb, hc]
  | cons e rest ih =>
    obtain ⟨d, v⟩ := e
    simp only [Memory.wfFrom, Bool.and_eq_true, decide_eq_true_eq, bne_iff_ne] at h
    obtain ⟨⟨⟨h1, h2⟩, h3⟩, h4⟩ := h
    simp only [Memory.put]
    split
    next had =>
      split
      next hb =>
        by_cases hc : c = a
        · subst hc
          have : c ≠ d := by omega
          simp [Memory.get, this, hb, Memory.get_below h4 (show c < d + 1 by omega)]
        · simp [hc]
      next hb => simp [Memory.get]
    next had =>
      split
      next hae =>
        subst hae
        split
        next hb =>
          by_cases hc : c = a
          · subst hc
            simp [hb, Memory.get_below h4 (show c < c + 1 by omega)]
          · simp [Memory.get, hc]
        next hb => by_cases hc : c = a <;> simp [Memory.get, hc]
      next hae =>
        by_cases hc : c = d
        · subst hc
          have : c ≠ a := fun h => hae h.symm
          simp [Memory.get, this]
        · simp [Memory.get, hc, ih h4]

/-- `set` keeps the canonical form. -/
theorem Memory.wf_set {m : Memory} (h : Memory.wf m = true) (a : Nat) (b : Byte) :
    Memory.wf (Memory.set m a b) = true := by
  unfold Memory.set
  split
  · exact Memory.wfFrom_put h (Nat.zero_le a) (by assumption)
  · exact h

/-- A read after a write of one byte. -/
theorem Memory.get_set {m : Memory} (h : Memory.wf m = true) {a : Nat} (ha : a < Config.memSize) (b : Byte) (c : Nat) :
    Memory.get (Memory.set m a b) c = if c = a then b else Memory.get m c := by
  rw [Memory.set, if_pos ha, Memory.get_put h]

/-- `setBytes` keeps the canonical form. -/
theorem Memory.wf_setBytes {m : Memory} (h : Memory.wf m = true) (a : Nat) (bs : List Byte) :
    Memory.wf (Memory.setBytes m a bs) = true := by
  induction bs generalizing m a with
  | nil => exact h
  | cons b bs ih => exact ih (Memory.wf_set h a b) (a + 1)

/-- A read after a write of successive bytes: the byte written where one was, the old byte elsewhere. -/
theorem Memory.get_setBytes {m : Memory} (h : Memory.wf m = true) {a : Nat} {bs : List Byte}
    (ha : a + bs.length ≤ Config.memSize) (c : Nat) :
    Memory.get (Memory.setBytes m a bs) c = if a ≤ c ∧ c < a + bs.length then bs.getD (c - a) 0 else Memory.get m c := by
  induction bs generalizing m a with
  | nil =>
    have : ¬(a ≤ c ∧ c < a) := by omega
    simp [Memory.setBytes, this]
  | cons b bs ih =>
    simp only [List.length_cons] at ha
    rw [Memory.setBytes, ih (Memory.wf_set h a b) (by omega), Memory.get_set h (by simp only [Config.memSize] at *; omega)]
    by_cases hc : c = a
    · subst hc
      simp
    · by_cases hin : a + 1 ≤ c ∧ c < a + 1 + bs.length
      · have h2 : a ≤ c ∧ c < a + (b :: bs).length := by simp only [List.length_cons]; omega
        obtain ⟨k, rfl⟩ : ∃ k, c = a + 1 + k := ⟨c - (a + 1), by omega⟩
        rw [if_pos hin, if_pos h2, show a + 1 + k - (a + 1) = k by omega, show a + 1 + k - a = k + 1 by omega]
        rfl
      · have h2 : ¬(a ≤ c ∧ c < a + (b :: bs).length) := by simp only [List.length_cons]; omega
        rw [if_neg hin, if_neg h2, if_neg hc]

end Sys2Proof.Machine
end

