-- ==== Sys2Proof/Laws/State.lean ====
section
/-! SUPPORT. The small lemmas of the state: what each field, and each read of one element, is after each update. -/

namespace Sys2Proof.Machine

variable (s : State)

/-! ### After `setV` -/

@[simp] theorem State.setV_v (a : Vector Byte 16) : (s.setV a).v = a := rfl
@[simp] theorem State.setV_i (a : Vector Byte 16) : (s.setV a).i = s.i := rfl
@[simp] theorem State.setV_pc (a : Vector Byte 16) : (s.setV a).pc = s.pc := rfl
@[simp] theorem State.setV_sp (a : Vector Byte 16) : (s.setV a).sp = s.sp := rfl
@[simp] theorem State.setV_stk (a : Vector Byte 16) : (s.setV a).stk = s.stk := rfl
@[simp] theorem State.setV_dt (a : Vector Byte 16) : (s.setV a).dt = s.dt := rfl
@[simp] theorem State.setV_st (a : Vector Byte 16) : (s.setV a).st = s.st := rfl
@[simp] theorem State.setV_key (a : Vector Byte 16) : (s.setV a).key = s.key := rfl
@[simp] theorem State.setV_kw (a : Vector Byte 16) : (s.setV a).kw = s.kw := rfl
@[simp] theorem State.setV_fb (a : Vector Byte 16) : (s.setV a).fb = s.fb := rfl
@[simp] theorem State.setV_mem (a : Vector Byte 16) : (s.setV a).mem = s.mem := rfl
@[simp] theorem State.setV_fault (a : Vector Byte 16) : (s.setV a).fault = s.fault := rfl
@[simp] theorem State.setV_draws (a : Vector Byte 16) : (s.setV a).draws = s.draws := rfl
@[simp] theorem State.setV_slot (a : Vector Byte 16) (k : Fin 16) : (s.setV a).slot k = s.slot k := rfl
@[simp] theorem State.setV_pressed (a : Vector Byte 16) (k : Key) : (s.setV a).pressed k = s.pressed k := rfl
@[simp] theorem State.setV_byte (a : Vector Byte 16) (k : Nat) : (s.setV a).byte k = s.byte k := rfl
@[simp] theorem State.setV_indexAddr (a : Vector Byte 16) (k : Nat) : (s.setV a).indexAddr k = s.indexAddr k := rfl
@[simp] theorem State.setV_pixel (a : Vector Byte 16) (xx : Col) (yy : Row) : (s.setV a).pixel xx yy = s.pixel xx yy := rfl

/-! ### After `setI` -/

@[simp] theorem State.setI_v (a : Word) : (s.setI a).v = s.v := rfl
@[simp] theorem State.setI_i (a : Word) : (s.setI a).i = a := rfl
@[simp] theorem State.setI_pc (a : Word) : (s.setI a).pc = s.pc := rfl
@[simp] theorem State.setI_sp (a : Word) : (s.setI a).sp = s.sp := rfl
@[simp] theorem State.setI_stk (a : Word) : (s.setI a).stk = s.stk := rfl
@[simp] theorem State.setI_dt (a : Word) : (s.setI a).dt = s.dt := rfl
@[simp] theorem State.setI_st (a : Word) : (s.setI a).st = s.st := rfl
@[simp] theorem State.setI_key (a : Word) : (s.setI a).key = s.key := rfl
@[simp] theorem State.setI_kw (a : Word) : (s.setI a).kw = s.kw := rfl
@[simp] theorem State.setI_fb (a : Word) : (s.setI a).fb = s.fb := rfl
@[simp] theorem State.setI_mem (a : Word) : (s.setI a).mem = s.mem := rfl
@[simp] theorem State.setI_fault (a : Word) : (s.setI a).fault = s.fault := rfl
@[simp] theorem State.setI_draws (a : Word) : (s.setI a).draws = s.draws := rfl
@[simp] theorem State.setI_reg (a : Word) (k : Reg) : (s.setI a).reg k = s.reg k := rfl
@[simp] theorem State.setI_slot (a : Word) (k : Fin 16) : (s.setI a).slot k = s.slot k := rfl
@[simp] theorem State.setI_pressed (a : Word) (k : Key) : (s.setI a).pressed k = s.pressed k := rfl
@[simp] theorem State.setI_byte (a : Word) (k : Nat) : (s.setI a).byte k = s.byte k := rfl
@[simp] theorem State.setI_pixel (a : Word) (xx : Col) (yy : Row) : (s.setI a).pixel xx yy = s.pixel xx yy := rfl

/-! ### After `setPc` -/

@[simp] theorem State.setPc_v (a : Word) : (s.setPc a).v = s.v := rfl
@[simp] theorem State.setPc_i (a : Word) : (s.setPc a).i = s.i := rfl
@[simp] theorem State.setPc_pc (a : Word) : (s.setPc a).pc = a := rfl
@[simp] theorem State.setPc_sp (a : Word) : (s.setPc a).sp = s.sp := rfl
@[simp] theorem State.setPc_stk (a : Word) : (s.setPc a).stk = s.stk := rfl
@[simp] theorem State.setPc_dt (a : Word) : (s.setPc a).dt = s.dt := rfl
@[simp] theorem State.setPc_st (a : Word) : (s.setPc a).st = s.st := rfl
@[simp] theorem State.setPc_key (a : Word) : (s.setPc a).key = s.key := rfl
@[simp] theorem State.setPc_kw (a : Word) : (s.setPc a).kw = s.kw := rfl
@[simp] theorem State.setPc_fb (a : Word) : (s.setPc a).fb = s.fb := rfl
@[simp] theorem State.setPc_mem (a : Word) : (s.setPc a).mem = s.mem := rfl
@[simp] theorem State.setPc_fault (a : Word) : (s.setPc a).fault = s.fault := rfl
@[simp] theorem State.setPc_draws (a : Word) : (s.setPc a).draws = s.draws := rfl
@[simp] theorem State.setPc_reg (a : Word) (k : Reg) : (s.setPc a).reg k = s.reg k := rfl
@[simp] theorem State.setPc_slot (a : Word) (k : Fin 16) : (s.setPc a).slot k = s.slot k := rfl
@[simp] theorem State.setPc_pressed (a : Word) (k : Key) : (s.setPc a).pressed k = s.pressed k := rfl
@[simp] theorem State.setPc_byte (a : Word) (k : Nat) : (s.setPc a).byte k = s.byte k := rfl
@[simp] theorem State.setPc_indexAddr (a : Word) (k : Nat) : (s.setPc a).indexAddr k = s.indexAddr k := rfl
@[simp] theorem State.setPc_pixel (a : Word) (xx : Col) (yy : Row) : (s.setPc a).pixel xx yy = s.pixel xx yy := rfl

/-! ### After `setSp` -/

@[simp] theorem State.setSp_v (a : Byte) : (s.setSp a).v = s.v := rfl
@[simp] theorem State.setSp_i (a : Byte) : (s.setSp a).i = s.i := rfl
@[simp] theorem State.setSp_pc (a : Byte) : (s.setSp a).pc = s.pc := rfl
@[simp] theorem State.setSp_sp (a : Byte) : (s.setSp a).sp = a := rfl
@[simp] theorem State.setSp_stk (a : Byte) : (s.setSp a).stk = s.stk := rfl
@[simp] theorem State.setSp_dt (a : Byte) : (s.setSp a).dt = s.dt := rfl
@[simp] theorem State.setSp_st (a : Byte) : (s.setSp a).st = s.st := rfl
@[simp] theorem State.setSp_key (a : Byte) : (s.setSp a).key = s.key := rfl
@[simp] theorem State.setSp_kw (a : Byte) : (s.setSp a).kw = s.kw := rfl
@[simp] theorem State.setSp_fb (a : Byte) : (s.setSp a).fb = s.fb := rfl
@[simp] theorem State.setSp_mem (a : Byte) : (s.setSp a).mem = s.mem := rfl
@[simp] theorem State.setSp_fault (a : Byte) : (s.setSp a).fault = s.fault := rfl
@[simp] theorem State.setSp_draws (a : Byte) : (s.setSp a).draws = s.draws := rfl
@[simp] theorem State.setSp_reg (a : Byte) (k : Reg) : (s.setSp a).reg k = s.reg k := rfl
@[simp] theorem State.setSp_slot (a : Byte) (k : Fin 16) : (s.setSp a).slot k = s.slot k := rfl
@[simp] theorem State.setSp_pressed (a : Byte) (k : Key) : (s.setSp a).pressed k = s.pressed k := rfl
@[simp] theorem State.setSp_byte (a : Byte) (k : Nat) : (s.setSp a).byte k = s.byte k := rfl
@[simp] theorem State.setSp_indexAddr (a : Byte) (k : Nat) : (s.setSp a).indexAddr k = s.indexAddr k := rfl
@[simp] theorem State.setSp_pixel (a : Byte) (xx : Col) (yy : Row) : (s.setSp a).pixel xx yy = s.pixel xx yy := rfl

/-! ### After `setStk` -/

@[simp] theorem State.setStk_v (a : Vector Word 16) : (s.setStk a).v = s.v := rfl
@[simp] theorem State.setStk_i (a : Vector Word 16) : (s.setStk a).i = s.i := rfl
@[simp] theorem State.setStk_pc (a : Vector Word 16) : (s.setStk a).pc = s.pc := rfl
@[simp] theorem State.setStk_sp (a : Vector Word 16) : (s.setStk a).sp = s.sp := rfl
@[simp] theorem State.setStk_stk (a : Vector Word 16) : (s.setStk a).stk = a := rfl
@[simp] theorem State.setStk_dt (a : Vector Word 16) : (s.setStk a).dt = s.dt := rfl
@[simp] theorem State.setStk_st (a : Vector Word 16) : (s.setStk a).st = s.st := rfl
@[simp] theorem State.setStk_key (a : Vector Word 16) : (s.setStk a).key = s.key := rfl
@[simp] theorem State.setStk_kw (a : Vector Word 16) : (s.setStk a).kw = s.kw := rfl
@[simp] theorem State.setStk_fb (a : Vector Word 16) : (s.setStk a).fb = s.fb := rfl
@[simp] theorem State.setStk_mem (a : Vector Word 16) : (s.setStk a).mem = s.mem := rfl
@[simp] theorem State.setStk_fault (a : Vector Word 16) : (s.setStk a).fault = s.fault := rfl
@[simp] theorem State.setStk_draws (a : Vector Word 16) : (s.setStk a).draws = s.draws := rfl
@[simp] theorem State.setStk_reg (a : Vector Word 16) (k : Reg) : (s.setStk a).reg k = s.reg k := rfl
@[simp] theorem State.setStk_pressed (a : Vector Word 16) (k : Key) : (s.setStk a).pressed k = s.pressed k := rfl
@[simp] theorem State.setStk_byte (a : Vector Word 16) (k : Nat) : (s.setStk a).byte k = s.byte k := rfl
@[simp] theorem State.setStk_indexAddr (a : Vector Word 16) (k : Nat) : (s.setStk a).indexAddr k = s.indexAddr k := rfl
@[simp] theorem State.setStk_pixel (a : Vector Word 16) (xx : Col) (yy : Row) : (s.setStk a).pixel xx yy = s.pixel xx yy := rfl

/-! ### After `setDt` -/

@[simp] theorem State.setDt_v (a : Byte) : (s.setDt a).v = s.v := rfl
@[simp] theorem State.setDt_i (a : Byte) : (s.setDt a).i = s.i := rfl
@[simp] theorem State.setDt_pc (a : Byte) : (s.setDt a).pc = s.pc := rfl
@[simp] theorem State.setDt_sp (a : Byte) : (s.setDt a).sp = s.sp := rfl
@[simp] theorem State.setDt_stk (a : Byte) : (s.setDt a).stk = s.stk := rfl
@[simp] theorem State.setDt_dt (a : Byte) : (s.setDt a).dt = a := rfl
@[simp] theorem State.setDt_st (a : Byte) : (s.setDt a).st = s.st := rfl
@[simp] theorem State.setDt_key (a : Byte) : (s.setDt a).key = s.key := rfl
@[simp] theorem State.setDt_kw (a : Byte) : (s.setDt a).kw = s.kw := rfl
@[simp] theorem State.setDt_fb (a : Byte) : (s.setDt a).fb = s.fb := rfl
@[simp] theorem State.setDt_mem (a : Byte) : (s.setDt a).mem = s.mem := rfl
@[simp] theorem State.setDt_fault (a : Byte) : (s.setDt a).fault = s.fault := rfl
@[simp] theorem State.setDt_draws (a : Byte) : (s.setDt a).draws = s.draws := rfl
@[simp] theorem State.setDt_reg (a : Byte) (k : Reg) : (s.setDt a).reg k = s.reg k := rfl
@[simp] theorem State.setDt_slot (a : Byte) (k : Fin 16) : (s.setDt a).slot k = s.slot k := rfl
@[simp] theorem State.setDt_pressed (a : Byte) (k : Key) : (s.setDt a).pressed k = s.pressed k := rfl
@[simp] theorem State.setDt_byte (a : Byte) (k : Nat) : (s.setDt a).byte k = s.byte k := rfl
@[simp] theorem State.setDt_indexAddr (a : Byte) (k : Nat) : (s.setDt a).indexAddr k = s.indexAddr k := rfl
@[simp] theorem State.setDt_pixel (a : Byte) (xx : Col) (yy : Row) : (s.setDt a).pixel xx yy = s.pixel xx yy := rfl

/-! ### After `setSt` -/

@[simp] theorem State.setSt_v (a : Byte) : (s.setSt a).v = s.v := rfl
@[simp] theorem State.setSt_i (a : Byte) : (s.setSt a).i = s.i := rfl
@[simp] theorem State.setSt_pc (a : Byte) : (s.setSt a).pc = s.pc := rfl
@[simp] theorem State.setSt_sp (a : Byte) : (s.setSt a).sp = s.sp := rfl
@[simp] theorem State.setSt_stk (a : Byte) : (s.setSt a).stk = s.stk := rfl
@[simp] theorem State.setSt_dt (a : Byte) : (s.setSt a).dt = s.dt := rfl
@[simp] theorem State.setSt_st (a : Byte) : (s.setSt a).st = a := rfl
@[simp] theorem State.setSt_key (a : Byte) : (s.setSt a).key = s.key := rfl
@[simp] theorem State.setSt_kw (a : Byte) : (s.setSt a).kw = s.kw := rfl
@[simp] theorem State.setSt_fb (a : Byte) : (s.setSt a).fb = s.fb := rfl
@[simp] theorem State.setSt_mem (a : Byte) : (s.setSt a).mem = s.mem := rfl
@[simp] theorem State.setSt_fault (a : Byte) : (s.setSt a).fault = s.fault := rfl
@[simp] theorem State.setSt_draws (a : Byte) : (s.setSt a).draws = s.draws := rfl
@[simp] theorem State.setSt_reg (a : Byte) (k : Reg) : (s.setSt a).reg k = s.reg k := rfl
@[simp] theorem State.setSt_slot (a : Byte) (k : Fin 16) : (s.setSt a).slot k = s.slot k := rfl
@[simp] theorem State.setSt_pressed (a : Byte) (k : Key) : (s.setSt a).pressed k = s.pressed k := rfl
@[simp] theorem State.setSt_byte (a : Byte) (k : Nat) : (s.setSt a).byte k = s.byte k := rfl
@[simp] theorem State.setSt_indexAddr (a : Byte) (k : Nat) : (s.setSt a).indexAddr k = s.indexAddr k := rfl
@[simp] theorem State.setSt_pixel (a : Byte) (xx : Col) (yy : Row) : (s.setSt a).pixel xx yy = s.pixel xx yy := rfl

/-! ### After `setKeys` -/

@[simp] theorem State.setKeys_v (a : Vector Bool 16) : (s.setKeys a).v = s.v := rfl
@[simp] theorem State.setKeys_i (a : Vector Bool 16) : (s.setKeys a).i = s.i := rfl
@[simp] theorem State.setKeys_pc (a : Vector Bool 16) : (s.setKeys a).pc = s.pc := rfl
@[simp] theorem State.setKeys_sp (a : Vector Bool 16) : (s.setKeys a).sp = s.sp := rfl
@[simp] theorem State.setKeys_stk (a : Vector Bool 16) : (s.setKeys a).stk = s.stk := rfl
@[simp] theorem State.setKeys_dt (a : Vector Bool 16) : (s.setKeys a).dt = s.dt := rfl
@[simp] theorem State.setKeys_st (a : Vector Bool 16) : (s.setKeys a).st = s.st := rfl
@[simp] theorem State.setKeys_key (a : Vector Bool 16) : (s.setKeys a).key = a := rfl
@[simp] theorem State.setKeys_kw (a : Vector Bool 16) : (s.setKeys a).kw = s.kw := rfl
@[simp] theorem State.setKeys_fb (a : Vector Bool 16) : (s.setKeys a).fb = s.fb := rfl
@[simp] theorem State.setKeys_mem (a : Vector Bool 16) : (s.setKeys a).mem = s.mem := rfl
@[simp] theorem State.setKeys_fault (a : Vector Bool 16) : (s.setKeys a).fault = s.fault := rfl
@[simp] theorem State.setKeys_draws (a : Vector Bool 16) : (s.setKeys a).draws = s.draws := rfl
@[simp] theorem State.setKeys_reg (a : Vector Bool 16) (k : Reg) : (s.setKeys a).reg k = s.reg k := rfl
@[simp] theorem State.setKeys_slot (a : Vector Bool 16) (k : Fin 16) : (s.setKeys a).slot k = s.slot k := rfl
@[simp] theorem State.setKeys_byte (a : Vector Bool 16) (k : Nat) : (s.setKeys a).byte k = s.byte k := rfl
@[simp] theorem State.setKeys_indexAddr (a : Vector Bool 16) (k : Nat) : (s.setKeys a).indexAddr k = s.indexAddr k := rfl
@[simp] theorem State.setKeys_pixel (a : Vector Bool 16) (xx : Col) (yy : Row) : (s.setKeys a).pixel xx yy = s.pixel xx yy := rfl

/-! ### After `setKw` -/

@[simp] theorem State.setKw_v (a : KeyWait) : (s.setKw a).v = s.v := rfl
@[simp] theorem State.setKw_i (a : KeyWait) : (s.setKw a).i = s.i := rfl
@[simp] theorem State.setKw_pc (a : KeyWait) : (s.setKw a).pc = s.pc := rfl
@[simp] theorem State.setKw_sp (a : KeyWait) : (s.setKw a).sp = s.sp := rfl
@[simp] theorem State.setKw_stk (a : KeyWait) : (s.setKw a).stk = s.stk := rfl
@[simp] theorem State.setKw_dt (a : KeyWait) : (s.setKw a).dt = s.dt := rfl
@[simp] theorem State.setKw_st (a : KeyWait) : (s.setKw a).st = s.st := rfl
@[simp] theorem State.setKw_key (a : KeyWait) : (s.setKw a).key = s.key := rfl
@[simp] theorem State.setKw_kw (a : KeyWait) : (s.setKw a).kw = a := rfl
@[simp] theorem State.setKw_fb (a : KeyWait) : (s.setKw a).fb = s.fb := rfl
@[simp] theorem State.setKw_mem (a : KeyWait) : (s.setKw a).mem = s.mem := rfl
@[simp] theorem State.setKw_fault (a : KeyWait) : (s.setKw a).fault = s.fault := rfl
@[simp] theorem State.setKw_draws (a : KeyWait) : (s.setKw a).draws = s.draws := rfl
@[simp] theorem State.setKw_reg (a : KeyWait) (k : Reg) : (s.setKw a).reg k = s.reg k := rfl
@[simp] theorem State.setKw_slot (a : KeyWait) (k : Fin 16) : (s.setKw a).slot k = s.slot k := rfl
@[simp] theorem State.setKw_pressed (a : KeyWait) (k : Key) : (s.setKw a).pressed k = s.pressed k := rfl
@[simp] theorem State.setKw_byte (a : KeyWait) (k : Nat) : (s.setKw a).byte k = s.byte k := rfl
@[simp] theorem State.setKw_indexAddr (a : KeyWait) (k : Nat) : (s.setKw a).indexAddr k = s.indexAddr k := rfl
@[simp] theorem State.setKw_pixel (a : KeyWait) (xx : Col) (yy : Row) : (s.setKw a).pixel xx yy = s.pixel xx yy := rfl

/-! ### After `setFb` -/

@[simp] theorem State.setFb_v (a : Framebuffer) : (s.setFb a).v = s.v := rfl
@[simp] theorem State.setFb_i (a : Framebuffer) : (s.setFb a).i = s.i := rfl
@[simp] theorem State.setFb_pc (a : Framebuffer) : (s.setFb a).pc = s.pc := rfl
@[simp] theorem State.setFb_sp (a : Framebuffer) : (s.setFb a).sp = s.sp := rfl
@[simp] theorem State.setFb_stk (a : Framebuffer) : (s.setFb a).stk = s.stk := rfl
@[simp] theorem State.setFb_dt (a : Framebuffer) : (s.setFb a).dt = s.dt := rfl
@[simp] theorem State.setFb_st (a : Framebuffer) : (s.setFb a).st = s.st := rfl
@[simp] theorem State.setFb_key (a : Framebuffer) : (s.setFb a).key = s.key := rfl
@[simp] theorem State.setFb_kw (a : Framebuffer) : (s.setFb a).kw = s.kw := rfl
@[simp] theorem State.setFb_fb (a : Framebuffer) : (s.setFb a).fb = a := rfl
@[simp] theorem State.setFb_mem (a : Framebuffer) : (s.setFb a).mem = s.mem := rfl
@[simp] theorem State.setFb_fault (a : Framebuffer) : (s.setFb a).fault = s.fault := rfl
@[simp] theorem State.setFb_draws (a : Framebuffer) : (s.setFb a).draws = s.draws := rfl
@[simp] theorem State.setFb_reg (a : Framebuffer) (k : Reg) : (s.setFb a).reg k = s.reg k := rfl
@[simp] theorem State.setFb_slot (a : Framebuffer) (k : Fin 16) : (s.setFb a).slot k = s.slot k := rfl
@[simp] theorem State.setFb_pressed (a : Framebuffer) (k : Key) : (s.setFb a).pressed k = s.pressed k := rfl
@[simp] theorem State.setFb_byte (a : Framebuffer) (k : Nat) : (s.setFb a).byte k = s.byte k := rfl
@[simp] theorem State.setFb_indexAddr (a : Framebuffer) (k : Nat) : (s.setFb a).indexAddr k = s.indexAddr k := rfl

/-! ### After `setMem` -/

@[simp] theorem State.setMem_v (a : Memory) : (s.setMem a).v = s.v := rfl
@[simp] theorem State.setMem_i (a : Memory) : (s.setMem a).i = s.i := rfl
@[simp] theorem State.setMem_pc (a : Memory) : (s.setMem a).pc = s.pc := rfl
@[simp] theorem State.setMem_sp (a : Memory) : (s.setMem a).sp = s.sp := rfl
@[simp] theorem State.setMem_stk (a : Memory) : (s.setMem a).stk = s.stk := rfl
@[simp] theorem State.setMem_dt (a : Memory) : (s.setMem a).dt = s.dt := rfl
@[simp] theorem State.setMem_st (a : Memory) : (s.setMem a).st = s.st := rfl
@[simp] theorem State.setMem_key (a : Memory) : (s.setMem a).key = s.key := rfl
@[simp] theorem State.setMem_kw (a : Memory) : (s.setMem a).kw = s.kw := rfl
@[simp] theorem State.setMem_fb (a : Memory) : (s.setMem a).fb = s.fb := rfl
@[simp] theorem State.setMem_mem (a : Memory) : (s.setMem a).mem = a := rfl
@[simp] theorem State.setMem_fault (a : Memory) : (s.setMem a).fault = s.fault := rfl
@[simp] theorem State.setMem_draws (a : Memory) : (s.setMem a).draws = s.draws := rfl
@[simp] theorem State.setMem_reg (a : Memory) (k : Reg) : (s.setMem a).reg k = s.reg k := rfl
@[simp] theorem State.setMem_slot (a : Memory) (k : Fin 16) : (s.setMem a).slot k = s.slot k := rfl
@[simp] theorem State.setMem_pressed (a : Memory) (k : Key) : (s.setMem a).pressed k = s.pressed k := rfl
@[simp] theorem State.setMem_indexAddr (a : Memory) (k : Nat) : (s.setMem a).indexAddr k = s.indexAddr k := rfl
@[simp] theorem State.setMem_pixel (a : Memory) (xx : Col) (yy : Row) : (s.setMem a).pixel xx yy = s.pixel xx yy := rfl

/-! ### After `setFault` -/

@[simp] theorem State.setFault_v (a : Option CoreFault) : (s.setFault a).v = s.v := rfl
@[simp] theorem State.setFault_i (a : Option CoreFault) : (s.setFault a).i = s.i := rfl
@[simp] theorem State.setFault_pc (a : Option CoreFault) : (s.setFault a).pc = s.pc := rfl
@[simp] theorem State.setFault_sp (a : Option CoreFault) : (s.setFault a).sp = s.sp := rfl
@[simp] theorem State.setFault_stk (a : Option CoreFault) : (s.setFault a).stk = s.stk := rfl
@[simp] theorem State.setFault_dt (a : Option CoreFault) : (s.setFault a).dt = s.dt := rfl
@[simp] theorem State.setFault_st (a : Option CoreFault) : (s.setFault a).st = s.st := rfl
@[simp] theorem State.setFault_key (a : Option CoreFault) : (s.setFault a).key = s.key := rfl
@[simp] theorem State.setFault_kw (a : Option CoreFault) : (s.setFault a).kw = s.kw := rfl
@[simp] theorem State.setFault_fb (a : Option CoreFault) : (s.setFault a).fb = s.fb := rfl
@[simp] theorem State.setFault_mem (a : Option CoreFault) : (s.setFault a).mem = s.mem := rfl
@[simp] theorem State.setFault_fault (a : Option CoreFault) : (s.setFault a).fault = a := rfl
@[simp] theorem State.setFault_draws (a : Option CoreFault) : (s.setFault a).draws = s.draws := rfl
@[simp] theorem State.setFault_reg (a : Option CoreFault) (k : Reg) : (s.setFault a).reg k = s.reg k := rfl
@[simp] theorem State.setFault_slot (a : Option CoreFault) (k : Fin 16) : (s.setFault a).slot k = s.slot k := rfl
@[simp] theorem State.setFault_pressed (a : Option CoreFault) (k : Key) : (s.setFault a).pressed k = s.pressed k := rfl
@[simp] theorem State.setFault_byte (a : Option CoreFault) (k : Nat) : (s.setFault a).byte k = s.byte k := rfl
@[simp] theorem State.setFault_indexAddr (a : Option CoreFault) (k : Nat) : (s.setFault a).indexAddr k = s.indexAddr k := rfl
@[simp] theorem State.setFault_pixel (a : Option CoreFault) (xx : Col) (yy : Row) : (s.setFault a).pixel xx yy = s.pixel xx yy := rfl

/-! ### After `setDraws` -/

@[simp] theorem State.setDraws_v (a : Nat) : (s.setDraws a).v = s.v := rfl
@[simp] theorem State.setDraws_i (a : Nat) : (s.setDraws a).i = s.i := rfl
@[simp] theorem State.setDraws_pc (a : Nat) : (s.setDraws a).pc = s.pc := rfl
@[simp] theorem State.setDraws_sp (a : Nat) : (s.setDraws a).sp = s.sp := rfl
@[simp] theorem State.setDraws_stk (a : Nat) : (s.setDraws a).stk = s.stk := rfl
@[simp] theorem State.setDraws_dt (a : Nat) : (s.setDraws a).dt = s.dt := rfl
@[simp] theorem State.setDraws_st (a : Nat) : (s.setDraws a).st = s.st := rfl
@[simp] theorem State.setDraws_key (a : Nat) : (s.setDraws a).key = s.key := rfl
@[simp] theorem State.setDraws_kw (a : Nat) : (s.setDraws a).kw = s.kw := rfl
@[simp] theorem State.setDraws_fb (a : Nat) : (s.setDraws a).fb = s.fb := rfl
@[simp] theorem State.setDraws_mem (a : Nat) : (s.setDraws a).mem = s.mem := rfl
@[simp] theorem State.setDraws_fault (a : Nat) : (s.setDraws a).fault = s.fault := rfl
@[simp] theorem State.setDraws_draws (a : Nat) : (s.setDraws a).draws = a := rfl
@[simp] theorem State.setDraws_reg (a : Nat) (k : Reg) : (s.setDraws a).reg k = s.reg k := rfl
@[simp] theorem State.setDraws_slot (a : Nat) (k : Fin 16) : (s.setDraws a).slot k = s.slot k := rfl
@[simp] theorem State.setDraws_pressed (a : Nat) (k : Key) : (s.setDraws a).pressed k = s.pressed k := rfl
@[simp] theorem State.setDraws_byte (a : Nat) (k : Nat) : (s.setDraws a).byte k = s.byte k := rfl
@[simp] theorem State.setDraws_indexAddr (a : Nat) (k : Nat) : (s.setDraws a).indexAddr k = s.indexAddr k := rfl
@[simp] theorem State.setDraws_pixel (a : Nat) (xx : Col) (yy : Row) : (s.setDraws a).pixel xx yy = s.pixel xx yy := rfl

end Sys2Proof.Machine
end

