-- ==== Sys2Proof/Laws/Ops.lean ====
section
/-! SUPPORT. One lemma per shared operation: everything it can do. Later proofs cite these and do not unfold the
operation. -/

namespace Sys2Proof.Machine

variable (s : State)

/-! ### Registers -/

/-- A register read after a register write. -/
@[simp] theorem State.setReg_reg (x : Reg) (b : Byte) (y : Reg) :
    (s.setReg x b).reg y = if y = x then b else s.reg y := by
  simp only [State.setReg, State.setV, State.reg, Vector.getElem_set, Fin.ext_iff, eq_comm]

@[simp] theorem State.setReg_i (x : Reg) (b : Byte) : (s.setReg x b).i = s.i := rfl
@[simp] theorem State.setReg_pc (x : Reg) (b : Byte) : (s.setReg x b).pc = s.pc := rfl
@[simp] theorem State.setReg_sp (x : Reg) (b : Byte) : (s.setReg x b).sp = s.sp := rfl
@[simp] theorem State.setReg_stk (x : Reg) (b : Byte) : (s.setReg x b).stk = s.stk := rfl
@[simp] theorem State.setReg_dt (x : Reg) (b : Byte) : (s.setReg x b).dt = s.dt := rfl
@[simp] theorem State.setReg_st (x : Reg) (b : Byte) : (s.setReg x b).st = s.st := rfl
@[simp] theorem State.setReg_key (x : Reg) (b : Byte) : (s.setReg x b).key = s.key := rfl
@[simp] theorem State.setReg_kw (x : Reg) (b : Byte) : (s.setReg x b).kw = s.kw := rfl
@[simp] theorem State.setReg_fb (x : Reg) (b : Byte) : (s.setReg x b).fb = s.fb := rfl
@[simp] theorem State.setReg_mem (x : Reg) (b : Byte) : (s.setReg x b).mem = s.mem := rfl
@[simp] theorem State.setReg_fault (x : Reg) (b : Byte) : (s.setReg x b).fault = s.fault := rfl
@[simp] theorem State.setReg_draws (x : Reg) (b : Byte) : (s.setReg x b).draws = s.draws := rfl
@[simp] theorem State.setReg_slot (x : Reg) (b : Byte) (k : Fin 16) : (s.setReg x b).slot k = s.slot k := rfl
@[simp] theorem State.setReg_pressed (x : Reg) (b : Byte) (k : Key) : (s.setReg x b).pressed k = s.pressed k := rfl
@[simp] theorem State.setReg_byte (x : Reg) (b : Byte) (a : Nat) : (s.setReg x b).byte a = s.byte a := rfl
@[simp] theorem State.setReg_indexAddr (x : Reg) (b : Byte) (k : Nat) : (s.setReg x b).indexAddr k = s.indexAddr k := rfl
@[simp] theorem State.setReg_pixel (x : Reg) (b : Byte) (xx : Col) (yy : Row) :
    (s.setReg x b).pixel xx yy = s.pixel xx yy := rfl

/-- A register read after a result and its flag: the flag in `VF`, whatever `x` is; then the result in `V[x]`
(40_arith_logic.md R100). -/
@[simp] theorem State.setResultFlag_reg (x : Reg) (r : Byte) (f : Bool) (y : Reg) :
    (s.setResultFlag x r f).reg y = if y = VF then flagByte f else if y = x then r else s.reg y := by
  simp [State.setResultFlag]

/-- A result and its flag change registers only. -/
theorem State.setResultFlag_others (x : Reg) (r : Byte) (f : Bool) :
    ∃ w : Vector Byte 16, s.setResultFlag x r f = s.setV w := ⟨_, rfl⟩

/-- The registers written one after the other, from a list of register numbers. -/
theorem State.foldl_setReg_reg (g : Nat → Byte) (n : Nat) (hn : n ≤ 16) (t : State) (y : Reg) :
    ((List.range n).foldl (fun u k => u.setReg (Fin.ofNat 16 k) (g k)) t).reg y =
      if y.val < n then g y.val else t.reg y := by
  induction n with
  | zero => simp
  | succ n ih =>
    rw [List.range_succ, List.foldl_append]
    simp only [List.foldl_cons, List.foldl_nil, State.setReg_reg, ih (by omega)]
    have hv : (Fin.ofNat 16 n).val = n := by simp [Fin.ofNat]; omega
    have hy : y = Fin.ofNat 16 n ↔ y.val = n := by rw [Fin.ext_iff, hv]
    by_cases h1 : y.val = n
    · rw [if_pos (hy.2 h1), if_pos (by omega), h1]
    · rw [if_neg (fun h => h1 (hy.1 h))]
      by_cases h2 : y.val < n
      · rw [if_pos h2, if_pos (by omega)]
      · rw [if_neg h2, if_neg (by omega)]

/-- Registers written one after the other change registers only. -/
theorem State.foldl_setReg_others (g : Nat → Byte) (ks : List Nat) (t : State) :
    ∃ w : Vector Byte 16, ks.foldl (fun u k => u.setReg (Fin.ofNat 16 k) (g k)) t = t.setV w := by
  induction ks generalizing t with
  | nil => exact ⟨t.v, rfl⟩
  | cons k ks ih =>
    obtain ⟨w, hw⟩ := ih (t.setReg (Fin.ofNat 16 k) (g k))
    exact ⟨w, by rw [List.foldl_cons, hw]; rfl⟩

/-- LDM's load: the bytes from `I` in `V[0]` to `V[x]`, the other registers as before (42_memory_bcd.md R146). -/
@[simp] theorem State.loadRegs_reg (x y : Reg) :
    (s.loadRegs x).reg y = if y ≤ x then s.byte (s.indexAddr y.val) else s.reg y := by
  rw [State.loadRegs, State.foldl_setReg_reg (fun k => s.byte (s.indexAddr k)) _ (by omega)]
  simp only [Fin.le_def, Nat.lt_succ_iff]

/-- LDM's load changes registers only. -/
theorem State.loadRegs_others (x : Reg) : ∃ w : Vector Byte 16, s.loadRegs x = s.setV w :=
  State.foldl_setReg_others _ _ _

/-! ### The program counter -/

theorem State.advance_eq : s.advance = s.setPc (s.pc + 2) := rfl

theorem State.stepBack_eq : s.stepBack = s.setPc (s.pc - 2) := rfl

theorem State.skipIf_eq (c : Bool) : s.skipIf c = s.setPc (if c then s.pc + 2 else s.pc) := by
  cases c <;> rfl

/-! ### Faults and data accesses -/

/-- Taking a fault changes `FAULT` and nothing else (60_exceptions.md R207). -/
theorem takeFault_eq (f : CoreFault) : takeFault f s = .next (s.setFault (some f)) := rfl

/-- The whole check of `count` accesses from `I`: it faults exactly when the last one is out of range. -/
theorem State.rangeFault_none (count : Nat) :
    s.rangeFault count = none ↔ count = 0 ∨ s.i.toNat + count - 1 ≤ 0xFFF := by
  simp only [State.rangeFault, List.findSome?_eq_none_iff, List.mem_range, accessFault, State.indexAddr,
    ite_eq_right_iff, reduceCtorEq, imp_false, gt_iff_lt, Nat.not_lt]
  constructor
  · intro h
    rcases Nat.eq_zero_or_pos count with h0 | h0
    · exact .inl h0
    · have := h (count - 1) (by omega)
      exact .inr (by omega)
  · intro h k hk
    omega

/-- The fault the check reports is `MemoryOutOfRange` of an address it reached, the first above 0xFFF. -/
theorem State.rangeFault_some {count : Nat} {f : CoreFault} (h : s.rangeFault count = some f) :
    ∃ k, k < count ∧ f = .memoryOutOfRange (s.i.toNat + k) ∧ 0xFFF < s.i.toNat + k ∧
      ∀ j, j < k → s.i.toNat + j ≤ 0xFFF := by
  induction count with
  | zero => simp [State.rangeFault] at h
  | succ n ih =>
    simp only [State.rangeFault, List.range_succ, List.findSome?_append] at h
    cases hn : (List.range n).findSome? (fun k => accessFault (s.indexAddr k)) with
    | some g =>
      rw [hn] at h
      simp only [Option.some_or, Option.some.injEq] at h
      obtain ⟨k, hk, rest⟩ := ih (by rw [State.rangeFault, hn, h])
      exact ⟨k, by omega, rest⟩
    | none =>
      rw [hn] at h
      have hlow := (State.rangeFault_none s n).1 hn
      by_cases hb : 0xFFF < s.indexAddr n
      · simp only [Option.none_or, List.findSome?_cons, accessFault, gt_iff_lt, if_pos hb,
          Option.some.injEq] at h
        exact ⟨n, by omega, h.symm, hb, fun j hj => by omega⟩
      · simp [accessFault, hb] at h

/-- An instruction with data accesses either takes the fault of the check or goes on. -/
theorem guardRange_cases (count : Nat) (go : State) :
    (s.rangeFault count = none ∧ guardRange count s go = .next go) ∨
      (∃ f, s.rangeFault count = some f ∧ guardRange count s go = .next (s.setFault (some f))) := by
  unfold guardRange
  cases h : s.rangeFault count with
  | none => exact .inl ⟨rfl, rfl⟩
  | some f => exact .inr ⟨f, rfl, rfl⟩

/-- Bytes stored change memory only. -/
theorem State.storeBytes_eq (a : Nat) (bs : List Byte) :
    s.storeBytes a bs = s.setMem (Memory.setBytes s.mem a bs) := rfl

/-- A byte read after bytes are stored. -/
theorem State.storeBytes_byte (h : Memory.wf s.mem = true) {a : Nat} {bs : List Byte}
    (ha : a + bs.length ≤ Config.memSize) (c : Nat) :
    (s.storeBytes a bs).byte c = if a ≤ c ∧ c < a + bs.length then bs.getD (c - a) 0 else s.byte c :=
  Memory.get_setBytes h ha c

/-! ### The call stack -/

/-- All a push can do (10_state.md R28). -/
theorem pushAndGo_cases (ret target : Word) :
    (∃ h : s.sp.toNat < 16, pushAndGo ret target s =
        .next (((s.setStk (s.stk.set s.sp.toNat ret)).setSp (s.sp + 1)).setPc target)) ∨
      (s.sp = 16 ∧ pushAndGo ret target s = .next (s.setFault (some .stackOverflow))) ∨
      (16 < s.sp.toNat ∧ pushAndGo ret target s = .fault (.noStackSlot s.sp)) := by
  unfold pushAndGo
  by_cases h : s.sp.toNat < 16
  · exact .inl ⟨h, by rw [dif_pos h]⟩
  · rw [dif_neg h]
    by_cases h16 : s.sp = 16
    · exact .inr (.inl ⟨h16, by rw [if_pos h16, takeFault_eq]⟩)
    · refine .inr (.inr ⟨?_, by rw [if_neg h16]⟩)
      have : s.sp.toNat ≠ 16 := fun e => h16 (BitVec.eq_of_toNat_eq e)
      omega

/-- All a pop can do (10_state.md R28). -/
theorem popAndGo_cases :
    (s.sp = 0 ∧ popAndGo s = .next (s.setFault (some .stackUnderflow))) ∨
      (∃ h : s.sp.toNat - 1 < 16, 0 < s.sp.toNat ∧ popAndGo s =
        .next ((s.setSp (s.sp - 1)).setPc (s.slot ⟨s.sp.toNat - 1, h⟩))) ∨
      (16 < s.sp.toNat ∧ popAndGo s = .fault (.noStackSlot s.sp)) := by
  unfold popAndGo
  by_cases h0 : s.sp = 0
  · exact .inl ⟨h0, by rw [if_pos h0, takeFault_eq]⟩
  · have hp : 0 < s.sp.toNat := by
      rcases Nat.eq_zero_or_pos s.sp.toNat with e | e
      · exact absurd (BitVec.eq_of_toNat_eq e) h0
      · exact e
    rw [if_neg h0]
    by_cases h : s.sp.toNat - 1 < 16
    · exact .inr (.inl ⟨h, hp, by rw [dif_pos h]; rfl⟩)
    · exact .inr (.inr ⟨by omega, by rw [dif_neg h]⟩)

/-! ### The keypad -/

/-- All a key test can do (44_input_timers.md R171 to R173). -/
theorem keySkip_cases (x : Reg) (test : Bool → Bool) :
    (∃ h : (s.reg x).toNat < 16, keySkip x test s =
        .next (s.setPc (if test (s.pressed ⟨(s.reg x).toNat, h⟩) then s.pc + 2 else s.pc))) ∨
      (15 < (s.reg x).toNat ∧ keySkip x test s = .next (s.setFault (some (.badKeyIndex (s.reg x))))) := by
  unfold keySkip
  by_cases h : (s.reg x).toNat < 16
  · exact .inl ⟨h, by rw [dif_pos h, State.skipIf_eq]⟩
  · exact .inr ⟨by omega, by rw [dif_neg h, takeFault_eq]⟩

/-- No key is pressed exactly when there is no lowest one. -/
theorem State.lowestPressed_none : s.lowestPressed = none ↔ ∀ k, s.pressed k = false := by
  simp [State.lowestPressed, List.find?_eq_none]

/-- The lowest pressed key is pressed, and no lower one is. -/
theorem State.lowestPressed_some {k : Key} :
    s.lowestPressed = some k ↔ s.pressed k = true ∧ ∀ j, j < k → s.pressed j = false := by
  have key : ∀ (n : Nat) (f : Fin n → Bool) (k : Fin n),
      (List.finRange n).find? f = some k ↔ f k = true ∧ ∀ j, j < k → f j = false := by
    intro n f k
    rw [List.find?_eq_some_iff_getElem]
    constructor
    · rintro ⟨h1, i, hi, he, hlow⟩
      simp only [List.getElem_finRange] at he hlow
      subst he
      refine ⟨h1, fun j hj => ?_⟩
      have := hlow j.val (by simpa [Fin.lt_def] using hj)
      simpa using this
    · rintro ⟨h1, hlow⟩
      refine ⟨h1, k.val, by simp, by simp, fun j hj => ?_⟩
      have := hlow ⟨j, by omega⟩ (by simpa [Fin.lt_def] using hj)
      simpa using this
  exact key 16 (fun k => s.pressed k) k

/-! ### The draw -/

theorem State.nextDraw_eq : s.nextDraw = s.setDraws (s.draws + 1) := rfl

/-! ### The framebuffer -/

/-- A pixel after one pixel is toggled. -/
theorem Framebuffer.toggle_pixel (fb : Framebuffer) (xx xx' : Col) (yy yy' : Row) :
    Framebuffer.pixel (Framebuffer.toggle fb xx yy) xx' yy' =
      if xx' = xx ∧ yy' = yy then !Framebuffer.pixel fb xx yy else Framebuffer.pixel fb xx' yy' := by
  by_cases hy : yy' = yy
  · subst hy
    by_cases hx : xx' = xx
    · subst hx
      simp [Framebuffer.pixel, Framebuffer.toggle]
    · have : xx.val ≠ xx'.val := fun h => hx (Fin.ext h.symm)
      simp [Framebuffer.pixel, Framebuffer.toggle, hx, this]
  · have : yy.val ≠ yy'.val := fun h => hy (Fin.ext h.symm)
    simp [Framebuffer.pixel, Framebuffer.toggle, hy, this]

/-- Every pixel of the blank screen is off. -/
@[simp] theorem blankScreen_pixel (xx : Col) (yy : Row) : Framebuffer.pixel blankScreen xx yy = false := by
  simp [blankScreen, Framebuffer.pixel]

/-! ### The fetch -/

/-- A placed word is the one fetched next, and the core is not halted (log entry 7). -/
theorem State.placeWord_fetch (h : Memory.wf s.mem = true) (w : Word) : (s.placeWord w).fetchWord = w := by
  have hpc : (s.placeWord w).pc = s.pc := rfl
  have hb (c : Nat) : (s.placeWord w).byte c = Memory.get (Memory.set (Memory.set s.mem (s.pc.toNat % Config.memSize)
    (w.extractLsb' 8 8)) ((s.pc.toNat + 1) % Config.memSize) (w.extractLsb' 0 8)) c := rfl
  have h1 := Memory.wf_set h (s.pc.toNat % Config.memSize) (w.extractLsb' 8 8)
  have l1 : s.pc.toNat % Config.memSize < Config.memSize := Nat.mod_lt _ (by decide)
  have l2 : (s.pc.toNat + 1) % Config.memSize < Config.memSize := Nat.mod_lt _ (by decide)
  have hne : s.pc.toNat % Config.memSize ≠ (s.pc.toNat + 1) % Config.memSize := by
    simp only [Config.memSize]
    omega
  rw [State.fetchWord, State.fetchByte, State.fetchByte, hpc, hb, hb, Memory.get_set h1 l2, Memory.get_set h1 l2,
    Memory.get_set h l1, if_neg hne, if_pos rfl, if_pos rfl, wordOf]
  ext i hi
  simp only [BitVec.getElem_append, BitVec.getElem_extractLsb']
  split
  · simp [BitVec.getLsbD_eq_getElem hi]
  · have : 8 + (i - 8) = i := by omega
    simp [this, BitVec.getLsbD_eq_getElem hi]

end Sys2Proof.Machine
end

