-- ==== Sys2Proof/Laws/Blit.lean ====
section
/-! SUPPORT. The XOR-blit: which pixels it toggles and when it collides (spec 43_display.md R162 to R165). Within one
sprite no pixel is toggled twice (R164), so the loops come out as a condition on each pixel. -/

namespace Sys2Proof.Machine

/-- The eight columns of a sprite are distinct (43_display.md R164). -/
theorem spriteCol_inj {vx : Byte} {c d : Nat} (hc : c < 8) (hd : d < 8) (h : spriteCol vx c = spriteCol vx d) : c = d := by
  simp only [spriteCol, Fin.ext_iff, Fin.val_ofNat] at h
  omega

/-- The rows of a sprite, at most 32 of them, are distinct (43_display.md R164). -/
theorem spriteRow_inj {vy : Byte} {r q : Nat} (hr : r < 32) (hq : q < 32) (h : spriteRow vy r = spriteRow vy q) : r = q := by
  simp only [spriteRow, Fin.ext_iff, Fin.val_ofNat] at h
  omega

/-- A pixel after one sprite bit. -/
theorem blitPixel_pixel (xx xx' : Col) (yy yy' : Row) (p : Framebuffer × Bool) :
    Framebuffer.pixel (blitPixel xx yy p).1 xx' yy' =
      if xx' = xx ∧ yy' = yy then !Framebuffer.pixel p.1 xx yy else Framebuffer.pixel p.1 xx' yy' :=
  Framebuffer.toggle_pixel p.1 xx xx' yy yy'

/-- The first `m` columns of a sprite row: the pixels toggled, and the collision. -/
theorem blitCols_spec (vx : Byte) (yy : Row) (b : Byte) (p : Framebuffer × Bool) (m : Nat) (hm : m ≤ 8) :
    (∀ xx yy', Framebuffer.pixel ((List.range m).foldl
        (fun q c => if spriteBit b c then blitPixel (spriteCol vx c) yy q else q) p).1 xx yy' ≠ Framebuffer.pixel p.1 xx yy' ↔
          ∃ c, c < m ∧ xx = spriteCol vx c ∧ yy' = yy ∧ spriteBit b c = true) ∧
      (((List.range m).foldl (fun q c => if spriteBit b c then blitPixel (spriteCol vx c) yy q else q) p).2 = true ↔
        p.2 = true ∨ ∃ c, c < m ∧ spriteBit b c = true ∧ Framebuffer.pixel p.1 (spriteCol vx c) yy = true) := by
  induction m with
  | zero => simp
  | succ m ih =>
    obtain ⟨ihp, ihh⟩ := ih (by omega)
    rw [List.range_succ, List.foldl_append, List.foldl_cons, List.foldl_nil]
    generalize hq : (List.range m).foldl
      (fun q c => if spriteBit b c then blitPixel (spriteCol vx c) yy q else q) p = q at ihp ihh
    have hsame : Framebuffer.pixel q.1 (spriteCol vx m) yy = Framebuffer.pixel p.1 (spriteCol vx m) yy := by
      by_contra hne
      obtain ⟨c, hc, he, -⟩ := (ihp _ _).1 hne
      have := spriteCol_inj (by omega) (by omega) he
      omega
    by_cases hb : spriteBit b m = true
    · rw [if_pos hb]
      constructor
      · intro xx yy'
        rw [blitPixel_pixel]
        by_cases hx : xx = spriteCol vx m ∧ yy' = yy
        · obtain ⟨rfl, rfl⟩ := hx
          rw [if_pos ⟨rfl, rfl⟩, hsame]
          exact ⟨fun _ => ⟨m, by omega, rfl, rfl, hb⟩, fun _ => by simp⟩
        · rw [if_neg hx, ihp]
          constructor
          · rintro ⟨c, hc, rest⟩
            exact ⟨c, by omega, rest⟩
          · rintro ⟨c, hc, h1, h2, h3⟩
            have : c ≠ m := by
              rintro rfl
              exact hx ⟨h1, h2⟩
            exact ⟨c, by omega, h1, h2, h3⟩
      · simp only [blitPixel, Bool.or_eq_true, ihh, hsame]
        constructor
        · rintro ((h | ⟨c, hc, rest⟩) | h)
          · exact .inl h
          · exact .inr ⟨c, by omega, rest⟩
          · exact .inr ⟨m, by omega, hb, h⟩
        · rintro (h | ⟨c, hc, h1, h2⟩)
          · exact .inl (.inl h)
          · rcases Nat.lt_succ_iff_lt_or_eq.1 hc with h | rfl
            · exact .inl (.inr ⟨c, h, h1, h2⟩)
            · exact .inr h2
    · rw [if_neg hb]
      have hc' {c : Nat} (h : spriteBit b c = true) (hc : c < m + 1) : c < m := by
        rcases Nat.lt_succ_iff_lt_or_eq.1 hc with h' | rfl
        · exact h'
        · exact absurd h hb
      constructor
      · intro xx yy'
        rw [ihp]
        constructor
        · rintro ⟨c, hc, rest⟩
          exact ⟨c, by omega, rest⟩
        · rintro ⟨c, hc, h1, h2, h3⟩
          exact ⟨c, hc' h3 hc, h1, h2, h3⟩
      · rw [ihh]
        constructor
        · rintro (h | ⟨c, hc, rest⟩)
          · exact .inl h
          · exact .inr ⟨c, by omega, rest⟩
        · rintro (h | ⟨c, hc, h1, h2⟩)
          · exact .inl h
          · exact .inr ⟨c, hc' h1 hc, h1, h2⟩

/-- One sprite row: the pixels it toggles. -/
theorem blitRow_pixel (vx : Byte) (yy : Row) (b : Byte) (p : Framebuffer × Bool) (xx : Col) (yy' : Row) :
    Framebuffer.pixel (blitRow vx yy b p).1 xx yy' ≠ Framebuffer.pixel p.1 xx yy' ↔
      ∃ c, c < 8 ∧ xx = spriteCol vx c ∧ yy' = yy ∧ spriteBit b c = true :=
  (blitCols_spec vx yy b p 8 (by omega)).1 xx yy'

/-- One sprite row: when it collides. -/
theorem blitRow_hit (vx : Byte) (yy : Row) (b : Byte) (p : Framebuffer × Bool) :
    (blitRow vx yy b p).2 = true ↔
      p.2 = true ∨ ∃ c, c < 8 ∧ spriteBit b c = true ∧ Framebuffer.pixel p.1 (spriteCol vx c) yy = true :=
  (blitCols_spec vx yy b p 8 (by omega)).2

/-- The whole sprite, at most 32 rows: the pixels it toggles, and when it collides. -/
theorem State.blit_spec (s : State) (vx vy : Byte) (n : Nat) (hn : n ≤ 32) :
    (∀ xx yy, Framebuffer.pixel (s.blit vx vy n).1 xx yy ≠ s.pixel xx yy ↔
        ∃ r c, r < n ∧ c < 8 ∧ xx = spriteCol vx c ∧ yy = spriteRow vy r ∧
          spriteBit (s.byte (s.indexAddr r)) c = true) ∧
      ((s.blit vx vy n).2 = true ↔
        ∃ r c, r < n ∧ c < 8 ∧ spriteBit (s.byte (s.indexAddr r)) c = true ∧
          s.pixel (spriteCol vx c) (spriteRow vy r) = true) := by
  induction n with
  | zero => simp [State.blit, State.pixel]
  | succ n ih =>
    obtain ⟨ihp, ihh⟩ := ih (by omega)
    have hstep : s.blit vx vy (n + 1) =
        blitRow vx (spriteRow vy n) (s.byte (s.indexAddr n)) (s.blit vx vy n) := by
      simp only [State.blit, List.range_succ, List.foldl_append, List.foldl_cons, List.foldl_nil]
    have hrow (xx : Col) : Framebuffer.pixel (s.blit vx vy n).1 xx (spriteRow vy n) = s.pixel xx (spriteRow vy n) := by
      by_contra hne
      obtain ⟨r, c, hr, -, -, he, -⟩ := (ihp _ _).1 hne
      have := spriteRow_inj (by omega) (by omega) he
      omega
    rw [hstep]
    constructor
    · intro xx yy
      by_cases hy : yy = spriteRow vy n
      · subst hy
        rw [← hrow xx, blitRow_pixel]
        constructor
        · rintro ⟨c, hc, h1, h2, h3⟩
          exact ⟨n, c, by omega, hc, h1, h2, h3⟩
        · rintro ⟨r, c, hr, hc, h1, h2, h3⟩
          have := spriteRow_inj (by omega) (by omega) h2
          subst this
          exact ⟨c, hc, h1, rfl, h3⟩
      · have : Framebuffer.pixel (blitRow vx (spriteRow vy n) (s.byte (s.indexAddr n)) (s.blit vx vy n)).1 xx yy =
            Framebuffer.pixel (s.blit vx vy n).1 xx yy := by
          by_contra hne
          obtain ⟨c, -, -, he, -⟩ := (blitRow_pixel _ _ _ _ _ _).1 hne
          exact hy he
        rw [this, ihp]
        constructor
        · rintro ⟨r, c, hr, rest⟩
          exact ⟨r, c, by omega, rest⟩
        · rintro ⟨r, c, hr, hc, h1, h2, h3⟩
          have : r ≠ n := by
            rintro rfl
            exact hy h2
          exact ⟨r, c, by omega, hc, h1, h2, h3⟩
    · rw [blitRow_hit, ihh]
      constructor
      · rintro (⟨r, c, hr, rest⟩ | ⟨c, hc, h1, h2⟩)
        · exact ⟨r, c, by omega, rest⟩
        · exact ⟨n, c, by omega, hc, h1, by rw [← hrow]; exact h2⟩
      · rintro ⟨r, c, hr, hc, h1, h2⟩
        rcases Nat.lt_succ_iff_lt_or_eq.1 hr with h | rfl
        · exact .inl ⟨r, c, h, hc, h1, h2⟩
        · exact .inr ⟨c, hc, h1, by rw [hrow]; exact h2⟩

end Sys2Proof.Machine
end

