-- ==== Sys2Proof/Laws/Decode.lean ====
section
/-! SUPPORT. The fields of a word laid out in each format (spec 30_encoding.md R71, R72). -/

namespace Sys2Proof

@[simp] theorem regOf_regField (r : Reg) : regOf (regField r) = r := rfl

@[simp] theorem regField_regOf (f : Nibble) : regField (regOf f) = f := rfl

@[simp] theorem family_formatA (f : Nibble) (nnn : Addr12) : family (formatA f nnn) = f := by
  simp only [family, formatA]
  ext i hi
  simp only [BitVec.getElem_extractLsb', BitVec.getLsbD_append]
  rw [if_neg (by omega), show 12 + i - 12 = i by omega, BitVec.getLsbD_eq_getElem hi]

@[simp] theorem fieldNNN_formatA (f : Nibble) (nnn : Addr12) : fieldNNN (formatA f nnn) = nnn := by
  simp only [fieldNNN, formatA]
  ext i hi
  simp only [BitVec.getElem_extractLsb', BitVec.getLsbD_append]
  rw [if_pos (by omega), Nat.zero_add, BitVec.getLsbD_eq_getElem hi]

@[simp] theorem family_formatI (f : Nibble) (x : Reg) (nn : Byte) : family (formatI f x nn) = f := by
  simp only [family, formatI]
  ext i hi
  simp only [BitVec.getElem_extractLsb', BitVec.getLsbD_append]
  rw [if_neg (by omega), if_neg (by omega), show 12 + i - 8 - 4 = i by omega, BitVec.getLsbD_eq_getElem hi]

@[simp] theorem fieldX_formatI (f : Nibble) (x : Reg) (nn : Byte) : fieldX (formatI f x nn) = regField x := by
  simp only [fieldX, formatI]
  ext i hi
  simp only [BitVec.getElem_extractLsb', BitVec.getLsbD_append]
  rw [if_neg (by omega), if_pos (by omega), show 8 + i - 8 = i by omega, BitVec.getLsbD_eq_getElem hi]

@[simp] theorem fieldNN_formatI (f : Nibble) (x : Reg) (nn : Byte) : fieldNN (formatI f x nn) = nn := by
  simp only [fieldNN, formatI]
  ext i hi
  simp only [BitVec.getElem_extractLsb', BitVec.getLsbD_append]
  rw [if_pos (by omega), Nat.zero_add, BitVec.getLsbD_eq_getElem hi]

@[simp] theorem family_formatR (f : Nibble) (x y : Reg) (n : Nibble) : family (formatR f x y n) = f := by
  simp only [family, formatR]
  ext i hi
  simp only [BitVec.getElem_extractLsb', BitVec.getLsbD_append]
  rw [if_neg (by omega), if_neg (by omega), if_neg (by omega), show 12 + i - 4 - 4 - 4 = i by omega,
    BitVec.getLsbD_eq_getElem hi]

@[simp] theorem fieldX_formatR (f : Nibble) (x y : Reg) (n : Nibble) : fieldX (formatR f x y n) = regField x := by
  simp only [fieldX, formatR]
  ext i hi
  simp only [BitVec.getElem_extractLsb', BitVec.getLsbD_append]
  rw [if_neg (by omega), if_neg (by omega), if_pos (by omega), show 8 + i - 4 - 4 = i by omega,
    BitVec.getLsbD_eq_getElem hi]

@[simp] theorem fieldY_formatR (f : Nibble) (x y : Reg) (n : Nibble) : fieldY (formatR f x y n) = regField y := by
  simp only [fieldY, formatR]
  ext i hi
  simp only [BitVec.getElem_extractLsb', BitVec.getLsbD_append]
  rw [if_neg (by omega), if_pos (by omega), show 4 + i - 4 = i by omega, BitVec.getLsbD_eq_getElem hi]

@[simp] theorem fieldN_formatR (f : Nibble) (x y : Reg) (n : Nibble) : fieldN (formatR f x y n) = n := by
  simp only [fieldN, formatR]
  ext i hi
  simp only [BitVec.getElem_extractLsb', BitVec.getLsbD_append]
  rw [if_pos (by omega), Nat.zero_add, BitVec.getLsbD_eq_getElem hi]

/-! ### A word as its fields, and the masks of the opcode map (30_encoding.md R79) -/

/-- A word is its family and its address field. -/
theorem word_split (w : Word) : w = family w ++ fieldNNN w := by
  apply BitVec.eq_of_getLsbD_eq
  intro i hi
  simp only [family, fieldNNN, BitVec.getLsbD_append, BitVec.getLsbD_extractLsb']
  split <;> rename_i h
  · simp [h]
  · simp [show i - 12 < 4 by omega, show 12 + (i - 12) = i by omega]

/-- `nnn = x ++ nn` (30_encoding.md R71). -/
theorem fieldNNN_split (w : Word) : fieldNNN w = fieldX w ++ fieldNN w := by
  apply BitVec.eq_of_getLsbD_eq
  intro i hi
  simp only [fieldNNN, fieldX, fieldNN, BitVec.getLsbD_append, BitVec.getLsbD_extractLsb']
  split <;> rename_i h
  · simp [h, hi]
  · simp [hi, show i - 8 < 4 by omega, show 8 + (i - 8) = i by omega]

/-- `nn = y ++ n` (30_encoding.md R71). -/
theorem fieldNN_split (w : Word) : fieldNN w = fieldY w ++ fieldN w := by
  apply BitVec.eq_of_getLsbD_eq
  intro i hi
  simp only [fieldY, fieldN, fieldNN, BitVec.getLsbD_append, BitVec.getLsbD_extractLsb']
  split <;> rename_i h
  · simp [h, hi]
  · simp [hi, show i - 4 < 4 by omega, show 4 + (i - 4) = i by omega]

/-- The mask of formats A, I and D keeps the family. -/
theorem and_F000 (w : Word) : w &&& 0xF000#16 = family w ++ 0#12 := by
  conv_lhs => rw [word_split w, show (0xF000#16) = (0xF#4 ++ 0x000#12) from rfl, BitVec.and_append]
  rw [show 0xF#4 = BitVec.allOnes 4 from rfl, BitVec.and_allOnes, BitVec.and_zero]

/-- The mask of format S keeps the family and `nn`. -/
theorem and_F0FF (w : Word) : w &&& 0xF0FF#16 = family w ++ (0#4 ++ fieldNN w) := by
  conv_lhs => rw [word_split w, fieldNNN_split, show (0xF0FF#16) = (0xF#4 ++ (0x0#4 ++ 0xFF#8)) from rfl,
    BitVec.and_append, BitVec.and_append]
  rw [show 0xF#4 = BitVec.allOnes 4 from rfl, show 0xFF#8 = BitVec.allOnes 8 from rfl, BitVec.and_allOnes,
    BitVec.and_allOnes, BitVec.and_zero]

/-- The mask of format R keeps the family and `n`. -/
theorem and_F00F (w : Word) : w &&& 0xF00F#16 = family w ++ (0#4 ++ (0#4 ++ fieldN w)) := by
  conv_lhs => rw [word_split w, fieldNNN_split, fieldNN_split,
    show (0xF00F#16) = (0xF#4 ++ (0x0#4 ++ (0x0#4 ++ 0xF#4))) from rfl, BitVec.and_append, BitVec.and_append,
    BitVec.and_append]
  rw [show 0xF#4 = BitVec.allOnes 4 from rfl, BitVec.and_allOnes, BitVec.and_allOnes, BitVec.and_zero, BitVec.and_zero]

end Sys2Proof
end

