-- ==== Sys2Proof/Laws/PerInstr.lean ====
section
/-! SUPPORT. Statements made per instruction: one lemma per constructor of `Instr`. -/

namespace Sys2Proof.Laws

/-- The instruction's word matches the instruction's own row of the opcode map: `encode i AND mask = match`
(spec 30_encoding.md R79). -/
def EncodeRow.Statement (i : Instr) : Prop := i.row.hits (encode i) = true

theorem EncodeRow.cls : EncodeRow.Statement (.cls) := by
  rfl

theorem EncodeRow.ret : EncodeRow.Statement (.ret) := by
  rfl

theorem EncodeRow.jp (nnn : Addr12) : EncodeRow.Statement (.jp nnn) := by
  simp [EncodeRow.Statement, Instr.row, OpcodeRow.hits, encode, and_F000]

theorem EncodeRow.call (nnn : Addr12) : EncodeRow.Statement (.call nnn) := by
  simp [EncodeRow.Statement, Instr.row, OpcodeRow.hits, encode, and_F000]

theorem EncodeRow.sei (x : Reg) (nn : Byte) : EncodeRow.Statement (.sei x nn) := by
  simp [EncodeRow.Statement, Instr.row, OpcodeRow.hits, encode, and_F000]

theorem EncodeRow.snei (x : Reg) (nn : Byte) : EncodeRow.Statement (.snei x nn) := by
  simp [EncodeRow.Statement, Instr.row, OpcodeRow.hits, encode, and_F000]

theorem EncodeRow.ser (x y : Reg) : EncodeRow.Statement (.ser x y) := by
  simp [EncodeRow.Statement, Instr.row, OpcodeRow.hits, encode, and_F00F]

theorem EncodeRow.ldi (x : Reg) (nn : Byte) : EncodeRow.Statement (.ldi x nn) := by
  simp [EncodeRow.Statement, Instr.row, OpcodeRow.hits, encode, and_F000]

theorem EncodeRow.addi (x : Reg) (nn : Byte) : EncodeRow.Statement (.addi x nn) := by
  simp [EncodeRow.Statement, Instr.row, OpcodeRow.hits, encode, and_F000]

theorem EncodeRow.mov (x y : Reg) : EncodeRow.Statement (.mov x y) := by
  simp [EncodeRow.Statement, Instr.row, OpcodeRow.hits, encode, and_F00F]

theorem EncodeRow.or (x y : Reg) : EncodeRow.Statement (.or x y) := by
  simp [EncodeRow.Statement, Instr.row, OpcodeRow.hits, encode, and_F00F]

theorem EncodeRow.and (x y : Reg) : EncodeRow.Statement (.and x y) := by
  simp [EncodeRow.Statement, Instr.row, OpcodeRow.hits, encode, and_F00F]

theorem EncodeRow.xor (x y : Reg) : EncodeRow.Statement (.xor x y) := by
  simp [EncodeRow.Statement, Instr.row, OpcodeRow.hits, encode, and_F00F]

theorem EncodeRow.add (x y : Reg) : EncodeRow.Statement (.add x y) := by
  simp [EncodeRow.Statement, Instr.row, OpcodeRow.hits, encode, and_F00F]

theorem EncodeRow.sub (x y : Reg) : EncodeRow.Statement (.sub x y) := by
  simp [EncodeRow.Statement, Instr.row, OpcodeRow.hits, encode, and_F00F]

theorem EncodeRow.shr (x y : Reg) : EncodeRow.Statement (.shr x y) := by
  simp [EncodeRow.Statement, Instr.row, OpcodeRow.hits, encode, and_F00F]

theorem EncodeRow.subn (x y : Reg) : EncodeRow.Statement (.subn x y) := by
  simp [EncodeRow.Statement, Instr.row, OpcodeRow.hits, encode, and_F00F]

theorem EncodeRow.shl (x y : Reg) : EncodeRow.Statement (.shl x y) := by
  simp [EncodeRow.Statement, Instr.row, OpcodeRow.hits, encode, and_F00F]

theorem EncodeRow.sner (x y : Reg) : EncodeRow.Statement (.sner x y) := by
  simp [EncodeRow.Statement, Instr.row, OpcodeRow.hits, encode, and_F00F]

theorem EncodeRow.ldx (nnn : Addr12) : EncodeRow.Statement (.ldx nnn) := by
  simp [EncodeRow.Statement, Instr.row, OpcodeRow.hits, encode, and_F000]

theorem EncodeRow.jpv0 (nnn : Addr12) : EncodeRow.Statement (.jpv0 nnn) := by
  simp [EncodeRow.Statement, Instr.row, OpcodeRow.hits, encode, and_F000]

theorem EncodeRow.rnd (x : Reg) (nn : Byte) : EncodeRow.Statement (.rnd x nn) := by
  simp [EncodeRow.Statement, Instr.row, OpcodeRow.hits, encode, and_F000]

theorem EncodeRow.drw (x y : Reg) (n : Nat) : EncodeRow.Statement (.drw x y n) := by
  simp [EncodeRow.Statement, Instr.row, OpcodeRow.hits, encode, and_F000]

theorem EncodeRow.skp (x : Reg) : EncodeRow.Statement (.skp x) := by
  simp [EncodeRow.Statement, Instr.row, OpcodeRow.hits, encode, and_F0FF]

theorem EncodeRow.sknp (x : Reg) : EncodeRow.Statement (.sknp x) := by
  simp [EncodeRow.Statement, Instr.row, OpcodeRow.hits, encode, and_F0FF]

theorem EncodeRow.lddt (x : Reg) : EncodeRow.Statement (.lddt x) := by
  simp [EncodeRow.Statement, Instr.row, OpcodeRow.hits, encode, and_F0FF]

theorem EncodeRow.waitk (x : Reg) : EncodeRow.Statement (.waitk x) := by
  simp [EncodeRow.Statement, Instr.row, OpcodeRow.hits, encode, and_F0FF]

theorem EncodeRow.stdt (x : Reg) : EncodeRow.Statement (.stdt x) := by
  simp [EncodeRow.Statement, Instr.row, OpcodeRow.hits, encode, and_F0FF]

theorem EncodeRow.stst (x : Reg) : EncodeRow.Statement (.stst x) := by
  simp [EncodeRow.Statement, Instr.row, OpcodeRow.hits, encode, and_F0FF]

theorem EncodeRow.addx (x : Reg) : EncodeRow.Statement (.addx x) := by
  simp [EncodeRow.Statement, Instr.row, OpcodeRow.hits, encode, and_F0FF]

theorem EncodeRow.font (x : Reg) : EncodeRow.Statement (.font x) := by
  simp [EncodeRow.Statement, Instr.row, OpcodeRow.hits, encode, and_F0FF]

theorem EncodeRow.bcd (x : Reg) : EncodeRow.Statement (.bcd x) := by
  simp [EncodeRow.Statement, Instr.row, OpcodeRow.hits, encode, and_F0FF]

theorem EncodeRow.stm (x : Reg) : EncodeRow.Statement (.stm x) := by
  simp [EncodeRow.Statement, Instr.row, OpcodeRow.hits, encode, and_F0FF]

theorem EncodeRow.ldm (x : Reg) : EncodeRow.Statement (.ldm x) := by
  simp [EncodeRow.Statement, Instr.row, OpcodeRow.hits, encode, and_F0FF]

end Sys2Proof.Laws
end

