-- ==== Sys2Proof/Tests/Slice0.lean ====
section
/-! SUPPORT. The model's own tests: the WellFormed smoke, one word per constructor through the decoder, one-step tests
with the expected results of spec/95_test_vectors.md (the vector's name stands in each docstring), and a witness for
the hypotheses of each obligation. -/

namespace Sys2Proof.Tests
open Sys2Proof Sys2Proof.Machine

/-! ### Helpers -/

/-- The outcome is a next state with the property. -/
def after (o : Outcome) (p : State → Bool) : Bool :=
  match o with
  | .next t => p t
  | .fault _ => false
  | .refused _ => false

/-- The next state of an outcome, the reset state where there is none. -/
def stateOf (o : Outcome) : State :=
  match o with
  | .next t => t
  | .fault _ => State.reset
  | .refused _ => State.reset

/-- A state with some registers set. -/
def withRegs (rs : List (Reg × Byte)) (s : State) : State := rs.foldl (fun t r => t.setReg r.1 r.2) s

/-- The reset state with the word at 0x200 and some registers set. -/
def start (w : Nat) (rs : List (Reg × Byte)) : State := withRegs rs (State.reset.withFetchWord 16 w)

/-- The same with the word at address `a` and `pc` there. -/
def startAt (a : Word) (w : Nat) (rs : List (Reg × Byte)) : State :=
  withRegs rs ((State.reset.setPc a).withFetchWord 16 w)

/-- The state with `I` and some bytes of memory from there. -/
def withData (i : Word) (bs : List Byte) (s : State) : State := (s.setI i).storeBytes i.toNat bs

/-- The state with one key down. -/
def withKey (k : Key) (s : State) : State := s.setKeys (s.key.set k.val true)

/-- The state with one pixel lit. -/
def withPixel (xx : Col) (yy : Row) (s : State) : State := s.setFb (Framebuffer.toggle s.fb xx yy)

/-- Bytes of memory from `a` on. -/
def bytesAt (t : State) (a n : Nat) : List Byte := (List.range n).map (fun k => t.byte (a + k))

/-- The lit pixels of one row. -/
def litIn (t : State) (yy : Row) : List Col := (List.finRange 64).filter (fun xx => t.pixel xx yy)

/-! ### Well-formedness -/

/-- A row count above 15 has no field (30_encoding.md R71). -/
theorem test_wellformed_refuses_row_count : (Instr.drw 0 0 16).wellFormed = false := by decide

theorem test_wellformed_admits_row_count : (Instr.drw 0 0 15).wellFormed = true := by decide

/-! ### Decoding: 95_test_vectors.md section 2.1, one word per constructor -/

theorem test_decode_family_0 : decode 0x00E0 = .instr .cls ∧ decode 0x00EE = .instr .ret ∧
    decode 0x0000 = .unknown 0x0000 ∧ decode 0x01E0 = .unknown 0x01E0 ∧ decode 0x0123 = .unknown 0x0123 := by decide

theorem test_decode_families_1_2 : decode 0x1FFF = .instr (.jp 0xFFF) ∧ decode 0x2ABC = .instr (.call 0xABC) := by
  decide

theorem test_decode_families_3_4 : decode 0x3A42 = .instr (.sei 10 0x42) ∧ decode 0x4A42 = .instr (.snei 10 0x42) := by
  decide

theorem test_decode_families_5_9 : decode 0x5AB0 = .instr (.ser 10 11) ∧ decode 0x5AB1 = .unknown 0x5AB1 ∧
    decode 0x9AB0 = .instr (.sner 10 11) ∧ decode 0x9ABF = .unknown 0x9ABF := by decide

theorem test_decode_families_6_7 : decode 0x6C00 = .instr (.ldi 12 0) ∧ decode 0x7FFF = .instr (.addi 15 0xFF) := by
  decide

theorem test_decode_family_8 : decode 0x8120 = .instr (.mov 1 2) ∧ decode 0x8121 = .instr (.or 1 2) ∧
    decode 0x8122 = .instr (.and 1 2) ∧ decode 0x8123 = .instr (.xor 1 2) ∧ decode 0x8124 = .instr (.add 1 2) ∧
    decode 0x8125 = .instr (.sub 1 2) ∧ decode 0x8126 = .instr (.shr 1 2) ∧ decode 0x8127 = .instr (.subn 1 2) ∧
    decode 0x812E = .instr (.shl 1 2) := by decide

theorem test_decode_family_8_unknown : decode 0x8128 = .unknown 0x8128 ∧ decode 0x812D = .unknown 0x812D ∧
    decode 0x812F = .unknown 0x812F := by decide

theorem test_decode_families_A_B_C : decode 0xA123 = .instr (.ldx 0x123) ∧ decode 0xB123 = .instr (.jpv0 0x123) ∧
    decode 0xC50F = .instr (.rnd 5 0x0F) := by decide

theorem test_decode_family_D : decode 0xD120 = .instr (.drw 1 2 0) ∧ decode 0xD12F = .instr (.drw 1 2 15) := by decide

theorem test_decode_family_E : decode 0xE39E = .instr (.skp 3) ∧ decode 0xE3A1 = .instr (.sknp 3) ∧
    decode 0xE39F = .unknown 0xE39F ∧ decode 0xE300 = .unknown 0xE300 ∧ decode 0xE3A0 = .unknown 0xE3A0 := by decide

theorem test_decode_family_F : decode 0xF107 = .instr (.lddt 1) ∧ decode 0xF10A = .instr (.waitk 1) ∧
    decode 0xF115 = .instr (.stdt 1) ∧ decode 0xF118 = .instr (.stst 1) ∧ decode 0xF11E = .instr (.addx 1) ∧
    decode 0xF129 = .instr (.font 1) ∧ decode 0xF133 = .instr (.bcd 1) ∧ decode 0xF155 = .instr (.stm 1) ∧
    decode 0xF165 = .instr (.ldm 1) := by decide

theorem test_decode_family_F_unknown : decode 0xF100 = .unknown 0xF100 ∧ decode 0xF175 = .unknown 0xF175 ∧
    decode 0xF1FF = .unknown 0xF1FF ∧ decode 0xF130 = .unknown 0xF130 := by decide

/-- The first byte in memory is the high one (20_memory.md R53). -/
theorem test_decode_bytes_big_endian : decodeBytes 0x63 0x2A = .instr (.ldi 3 0x2A) ∧
    decodeTableWord 16 0x632A = some (.ldi 3 0x2A) ∧ decodeTableWord 16 0x8AB8 = none := by decide

/-- No word meets two rows of the opcode map (30_encoding.md R79): where two rows' masks overlap, their patterns
differ. -/
theorem test_opcode_map_rows_disjoint : opcodeMap.length = 34 ∧
    opcodeMap.Pairwise (fun a b => a.pattern &&& (a.mask &&& b.mask) ≠ b.pattern &&& (a.mask &&& b.mask)) := by decide

/-! ### Arithmetic and logic: section 2.2 -/

/-- A-2. -/
theorem test_ldi : after (step (start 0x6F07 [])) (fun t => t.reg VF == 0x07 && t.pc == 0x202) = true := by decide

/-- A-3. -/
theorem test_addi_wraps : after (step (start 0x7305 [(3, 0xFE)])) (fun t => t.reg 3 == 0x03 && t.reg VF == 0) = true := by
  decide

/-- A-7. -/
theorem test_mov : after (step (start 0x8010 [(1, 0x33)])) (fun t => t.reg 0 == 0x33 && t.reg 1 == 0x33) = true := by
  decide

/-- A-8. -/
theorem test_or : after (step (start 0x8011 [(0, 0xF0), (1, 0x0F), (15, 1)]))
    (fun t => t.reg 0 == 0xFF && t.reg VF == 1) = true := by decide

/-- A-9. -/
theorem test_and : after (step (start 0x8012 [(0, 0xF3), (1, 0x3C)])) (fun t => t.reg 0 == 0x30) = true := by decide

/-- A-10. -/
theorem test_xor : after (step (start 0x8013 [(0, 0xFF), (1, 0x0F)])) (fun t => t.reg 0 == 0xF0) = true := by decide

/-- A-16. -/
theorem test_add_same_register : after (step (start 0x8224 [(2, 0x90)]))
    (fun t => t.reg 2 == 0x20 && t.reg VF == 1) = true := by decide

/-- A-18. -/
theorem test_add_into_vf : after (step (start 0x8F14 [(15, 0xFF), (1, 0x03)])) (fun t => t.reg VF == 1) = true := by
  decide

/-- A-20. -/
theorem test_sub_borrows : after (step (start 0x8015 [(0, 0x10), (1, 0x20)]))
    (fun t => t.reg 0 == 0xF0 && t.reg VF == 0) = true := by decide

/-- A-22. -/
theorem test_sub_equal : after (step (start 0x8015 [(0, 0x20), (1, 0x20)]))
    (fun t => t.reg 0 == 0 && t.reg VF == 1) = true := by decide

/-- A-29. -/
theorem test_shr : after (step (start 0x8276 [(2, 0x05), (7, 0xAA)]))
    (fun t => t.reg 2 == 0x02 && t.reg VF == 1 && t.reg 7 == 0xAA) = true := by decide

/-- A-35. -/
theorem test_shr_vf : after (step (start 0x8F06 [(15, 0x02)])) (fun t => t.reg VF == 0) = true := by decide

/-- A-26. -/
theorem test_subn : after (step (start 0x8017 [(0, 0x10), (1, 0x20)]))
    (fun t => t.reg 0 == 0x10 && t.reg VF == 1) = true := by decide

/-- A-27. -/
theorem test_subn_borrows : after (step (start 0x8017 [(0, 0x20), (1, 0x10)]))
    (fun t => t.reg 0 == 0xF0 && t.reg VF == 0) = true := by decide

/-- A-36. -/
theorem test_shl : after (step (start 0x820E [(2, 0xC1)])) (fun t => t.reg 2 == 0x82 && t.reg VF == 1) = true := by
  decide

/-- A-42: the one RND whose result no draw can change; the next draw is a fresh one. -/
theorem test_rnd_mask_zero : ∃ t, exec (.rnd 3 0) (withRegs [(3, 9)] State.reset) = .next t ∧ t.reg 3 = 0 ∧ t.draws = 1 :=
  ⟨_, rfl, by simp, rfl⟩

/-! ### Control flow: section 2.3 -/

/-- C-3. -/
theorem test_jp_odd : after (step (start 0x1201 [])) (fun t => t.pc == 0x201) = true := by decide

/-- C-4. -/
theorem test_call : after (step (startAt 0x208 0x2210 []))
    (fun t => t.slot 0 == 0x20A && t.sp == 1 && t.pc == 0x210) = true := by decide

/-- C-6. -/
theorem test_call_overflow : after (step ((start 0x2300 []).setSp 16))
    (fun t => t.fault == some .stackOverflow && t.sp == 16 && t.pc == 0x202) = true := by decide

/-- C-5. -/
theorem test_ret : after (step (((startAt 0x214 0x00EE []).setSp 1).setStk ((Vector.replicate 16 0).set 0 0x20A)))
    (fun t => t.pc == 0x20A && t.sp == 0) = true := by decide

/-- C-7. -/
theorem test_ret_underflow : after (step (start 0x00EE []))
    (fun t => t.fault == some .stackUnderflow && t.sp == 0 && t.pc == 0x202) = true := by decide

/-- C-18. -/
theorem test_sei_skips : after (step (start 0x3F01 [(15, 1)])) (fun t => t.pc == 0x204) = true := by decide

/-- C-10. -/
theorem test_sei_stays : after (step (startAt 0x206 0x3100 [(1, 1)])) (fun t => t.pc == 0x208) = true := by decide

/-- C-11. -/
theorem test_snei_skips : after (step (startAt 0x206 0x4100 [(1, 5)])) (fun t => t.pc == 0x20A) = true := by decide

/-- C-13. -/
theorem test_ser_skips : after (step (startAt 0x300 0x5120 [(1, 0x44), (2, 0x44)])) (fun t => t.pc == 0x304) = true := by
  decide

/-- C-14. -/
theorem test_ser_stays : after (step (startAt 0x300 0x5120 [(1, 0x44), (2, 0x45)])) (fun t => t.pc == 0x302) = true := by
  decide

/-- C-16. -/
theorem test_sner_skips : after (step (startAt 0x300 0x9120 [(1, 0x44), (2, 0x45)])) (fun t => t.pc == 0x304) = true := by
  decide

/-- C-20. -/
theorem test_jpv0_leaves_twelve_bits : after (step (start 0xBFFF [(0, 0xFF)])) (fun t => t.pc == 0x10FE) = true := by
  decide

/-- C-23. -/
theorem test_pc_wraps : after (step (startAt 0xFFFE 0x6001 [])) (fun t => t.pc == 0 && t.reg 0 == 1) = true := by decide

/-! ### Memory, index and BCD: section 2.4 -/

/-- M-2. -/
theorem test_ldx : after (step (start 0xAFFF [])) (fun t => t.i == 0x0FFF) = true := by decide

/-- M-4. -/
theorem test_addx_no_flag : after (step ((start 0xF21E [(2, 1)]).setI 0x0FFF))
    (fun t => t.i == 0x1000 && t.reg VF == 0) = true := by decide

/-- M-5. -/
theorem test_addx_wraps : after (step ((start 0xF21E [(2, 1)]).setI 0xFFFF)) (fun t => t.i == 0) = true := by decide

/-- M-7, S7. -/
theorem test_font_digit : after (step (start 0xF029 [(0, 0x0A)])) (fun t => t.i == 0x0082) = true := by decide

/-- M-11. -/
theorem test_font_past_digits : after (step (start 0xF029 [(0, 0xFF)])) (fun t => t.i == 0x054B) = true := by decide

/-- M-12, S6. -/
theorem test_bcd : after (step ((start 0xF033 [(0, 0x9D)]).setI 0x300))
    (fun t => bytesAt t 0x300 3 == [1, 5, 7] && t.i == 0x300) = true := by decide

/-- M-18. -/
theorem test_bcd_out_of_range : after (step ((start 0xF033 [(0, 0x9D)]).setI 0xFFE))
    (fun t => t.fault == some (.memoryOutOfRange 0x1000) && bytesAt t 0xFFE 2 == [0, 0]) = true := by decide

/-- M-19. -/
theorem test_stm : after (step ((start 0xF255 [(0, 1), (1, 5), (2, 7), (3, 9)]).setI 0x400))
    (fun t => bytesAt t 0x400 4 == [1, 5, 7, 0] && t.i == 0x400) = true := by decide

/-- M-23. -/
theorem test_stm_out_of_range : after (step ((start 0xF055 []).setI 0x11FD))
    (fun t => t.fault == some (.memoryOutOfRange 0x11FD)) = true := by decide

/-- M-24. -/
theorem test_ldm : after (step (withData 0x300 [1, 5, 7, 9] (start 0xF265 [(3, 0xEE)])))
    (fun t => t.reg 0 == 1 && t.reg 1 == 5 && t.reg 2 == 7 && t.reg 3 == 0xEE && t.i == 0x300) = true := by decide

/-- M-26. -/
theorem test_ldm_out_of_range : after (step ((start 0xFF65 [(0, 0x77)]).setI 0xFF1))
    (fun t => t.fault == some (.memoryOutOfRange 0x1000) && t.reg 0 == 0x77) = true := by decide

/-! ### Display: section 2.5 -/

/-- G-1. -/
theorem test_cls : after (step (withPixel 3 3 (start 0x00E0 [(15, 5)])))
    (fun t => litIn t 3 == [] && t.reg VF == 5) = true := by decide

/-- G-6. -/
theorem test_drw_wraps : after (step (withData 0x300 [0xC0, 0x81] (start 0xD012 [(0, 62), (1, 31)])))
    (fun t => litIn t 31 == [62, 63] && litIn t 0 == [5, 62] && t.reg VF == 0) = true := by decide

/-- G-3, S4: the sprite drawn over itself. -/
theorem test_drw_collides : after (step (withData 0x300 [0x40] (withPixel 1 0 (start 0xD011 []))))
    (fun t => litIn t 0 == [] && t.reg VF == 1) = true := by decide

/-! ### Keypad and timers: section 2.6 -/

/-- K-1. -/
theorem test_skp_skips : after (step (withKey 10 (startAt 0x220 0xE49E [(4, 0x0A)])))
    (fun t => t.pc == 0x224) = true := by decide

/-- K-5. -/
theorem test_skp_bad_key : after (step (start 0xE49E [(4, 0x10)]))
    (fun t => t.fault == some (.badKeyIndex 0x10) && t.pc == 0x202) = true := by decide

/-- K-3. -/
theorem test_sknp_stays : after (step (withKey 10 (startAt 0x220 0xE4A1 [(4, 0x0A)])))
    (fun t => t.pc == 0x222) = true := by decide

/-- K-4. -/
theorem test_sknp_skips : after (step (startAt 0x220 0xE4A1 [(4, 0x0A)])) (fun t => t.pc == 0x224) = true := by decide

/-- K-7. -/
theorem test_waitk_waits : after (step (startAt 0x20A 0xF20A [(2, 0x99)]))
    (fun t => t.pc == 0x20A && t.kw == .waitingForKey && t.reg 2 == 0x99) = true := by decide

/-- K-8. -/
theorem test_waitk_takes_lowest : after (step (withKey 7 (withKey 3 ((startAt 0x20A 0xF20A []).setKw .waitingForKey))))
    (fun t => t.pc == 0x20C && t.kw == .idle && t.reg 2 == 3) = true := by decide

/-- K-11. -/
theorem test_lddt : after (step ((start 0xF107 []).setDt 0x1E)) (fun t => t.reg 1 == 0x1E) = true := by decide

/-- K-12. -/
theorem test_stdt : after (step (start 0xF015 [(0, 0x3C)])) (fun t => t.dt == 0x3C && t.st == 0) = true := by decide

/-- K-13. -/
theorem test_stst : after (step (start 0xF018 [(0, 5)])) (fun t => t.st == 5 && t.soundActive && t.dt == 0) = true := by
  decide

/-- K-14, K-15: a timer at zero stays there. -/
theorem test_tick : ((State.reset.setDt 2).tickTimers.dt == 1 && (State.reset.setDt 2).tickTimers.st == 0) = true := by
  decide

/-- K-17, K-18. -/
theorem test_set_key : (State.reset.setKey 2 true).2.pressed 2 = true ∧
    State.reset.setKey 16 true = (.refused, State.reset) := by decide

/-! ### Faults, the fetch, the host: section 2.7 -/

/-- F-1. -/
theorem test_reset_faults_on_empty_memory : after (step State.reset)
    (fun t => t.fault == some (.unknownOpcode 0x0000) && t.pc == 0x202) = true := by decide

/-- F-6: a word across the end of memory. -/
theorem test_fetch_straddles : after (step (startAt 0x0FFF 0x612A []))
    (fun t => t.reg 1 == 0x2A && t.pc == 0x1001 && t.byte 0xFFF == 0x61 && t.byte 0 == 0x2A) = true := by decide

/-- 93_implementation_defined.md U12: with the default table loaded, the glyph of digit 10 begins at 0x82 with 0xF0. -/
theorem test_load_font_default : (State.reset.loadFont Config.classicFont).1 = .done ∧
    (State.reset.loadFont Config.classicFont).2.byte 0x82 = 0xF0 := by
  constructor
  · rfl
  · show (State.reset.storeBytes 0x50 Config.classicFont).byte 0x82 = 0xF0
    rw [State.storeBytes_byte State.reset (by decide) (by decide)]
    decide

/-! ### Witnesses: a state and operands that meet the hypotheses of each obligation -/

/-- AddSumsWithCarry, SubAndSubnSubtract, ShiftsByOneIgnoreY: the clauses for `x` other than `F`. -/
theorem test_witness_not_vf : (0 : Reg) ≠ VF ∧ (14 : Reg) ≠ VF := by decide

/-- CallPushesReturnAddress: the first and the last free slot. -/
theorem test_witness_call_slots : State.reset.sp.toNat = (0 : Fin 16).val ∧
    (State.reset.setSp 15).sp.toNat = (15 : Fin 16).val := by decide

/-- RetPopsReturnAddress: one entry, and a full stack. -/
theorem test_witness_ret_slots : (State.reset.setSp 1).sp.toNat = (0 : Fin 16).val + 1 ∧
    (State.reset.setSp 16).sp.toNat = (15 : Fin 16).val + 1 := by decide

/-- StackLimitsFault: its three clauses. -/
theorem test_witness_stack_limits : (State.reset.setSp 16).sp.toNat = 16 ∧ State.reset.sp.toNat = 0 ∧
    16 < (State.reset.setSp 17).sp.toNat := by decide

/-- CallThenRetComesBack: `t` the state the CALL left, `u` the same with another register; first and last slot. -/
theorem test_witness_call_then_ret :
    (let s := State.reset
     let t := stateOf (exec (.call 0x300) s)
     s.sp.toNat < 16 ∧ exec (.call 0x300) s = .next t ∧ (t.setReg 1 7).sp = t.sp ∧
       ∀ k, (t.setReg 1 7).slot k = t.slot k) ∧
    (let s := State.reset.setSp 15
     let t := stateOf (exec (.call 0xFFF) s)
     s.sp.toNat < 16 ∧ exec (.call 0xFFF) s = .next t) :=
  ⟨⟨by decide, rfl, rfl, fun _ => rfl⟩, by decide, rfl⟩

/-- BcdStoresDigits: the highest three bytes. -/
theorem test_witness_bcd : Memory.wf (State.reset.setI 0xFFD).mem = true ∧
    (State.reset.setI 0xFFD).i.toNat + 2 ≤ 0xFFF := by decide

/-- StmStoresRegisters and LdmLoadsRegisters: all sixteen registers at the top of memory, and one at its last byte. -/
theorem test_witness_stm_ldm : Memory.wf (State.reset.setI 0xFF0).mem = true ∧
    (State.reset.setI 0xFF0).i.toNat + (15 : Reg).val ≤ 0xFFF ∧
    (State.reset.setI 0xFFF).i.toNat + (0 : Reg).val ≤ 0xFFF := by decide

/-- StmThenLdmRestores: `t` the state the STM left, `u` the same with a register overwritten. -/
theorem test_witness_stm_then_ldm :
    let s := withRegs [(0, 1), (1, 5)] (State.reset.setI 0xFFE)
    let t := stateOf (exec (.stm 1) s)
    Memory.wf s.mem = true ∧ s.i.toNat + (1 : Reg).val ≤ 0xFFF ∧ exec (.stm 1) s = .next t ∧
      (t.setReg 0 9).i = s.i ∧ ∀ a, (t.setReg 0 9).byte a = t.byte a :=
  ⟨by decide, by decide, rfl, rfl, fun _ => rfl⟩

/-- OutOfRangeFaultsBeforeWriting: each clause just past its limit, and DRW and STM far past it. -/
theorem test_witness_out_of_range :
    (0 < 2 ∧ 0xFFF < (State.reset.setI 0xFFF).i.toNat + 2 - 1) ∧ 0xFFF < (State.reset.setI 0xFFE).i.toNat + 2 ∧
    0xFFF < (State.reset.setI 0xFF1).i.toNat + (15 : Reg).val ∧
    (0 < 1 ∧ 0xFFF < (State.reset.setI 0x1000).i.toNat + 1 - 1) ∧
    0xFFF < (State.reset.setI 0xFFFF).i.toNat + (0 : Reg).val := by decide

/-- StoreSeenByNextFetch: STM of the two registers `V0` and `V1` at the last two bytes. -/
theorem test_witness_store_seen :
    let s := withRegs [(0, 0x12), (1, 0x34)] (State.reset.setI 0xFFE)
    let t := stateOf (exec (.stm 1) s)
    Memory.wf s.mem = true ∧ 1 ≤ (1 : Reg).val ∧ s.i.toNat + (1 : Reg).val ≤ 0xFFF ∧ exec (.stm 1) s = .next t :=
  ⟨by decide, by decide, by decide, rfl⟩

/-- DrwXorsSprite: no rows with `I` anywhere; one row at the last byte; fifteen rows up to it. -/
theorem test_witness_drw : spriteInMemory (State.reset.setI 0xFFFF) 0 ∧ spriteInMemory (State.reset.setI 0xFFF) 1 ∧
    spriteInMemory (State.reset.setI 0xFF1) 15 :=
  ⟨.inl rfl, .inr (by decide), .inr (by decide)⟩

/-- DrwXorsSprite: a covered pixel that is lit (the clause for `VF = 1`) with vector G-10's sprite, and a screen on
which no pixel is (the clause for `VF = 0`). -/
theorem test_witness_drw_collision :
    (let s := withData 0x300 [0x80] (withPixel 0 0 State.reset)
     spriteInMemory s 1 ∧ ∃ xx yy, spriteCovers s (s.reg 0) (s.reg 1) 1 xx yy ∧ s.pixel xx yy = true) ∧
    (let s := withData 0x300 [0x80] State.reset
     spriteInMemory s 1 ∧ ¬ ∃ xx yy, spriteCovers s (s.reg 0) (s.reg 1) 1 xx yy ∧ s.pixel xx yy = true) := by
  refine ⟨⟨.inr (by decide), 0, 0, ⟨0, 0, by decide, by decide, by decide, by decide, by decide⟩, by decide⟩,
    .inr (by decide), ?_⟩
  rintro ⟨xx, yy, -, h⟩
  exact absurd h (by simp [withData, State.storeBytes, State.setMem, State.setI, State.pixel, State.reset,
    Framebuffer.pixel])

/-- DrwTwiceRestoresScreen. -/
theorem test_witness_drw_twice :
    let s := withData 0xFFF [0xFF] State.reset
    let t := stateOf (exec (.drw 0 1 1) s)
    (0 : Reg) ≠ VF ∧ (1 : Reg) ≠ VF ∧ spriteInMemory s 1 ∧ exec (.drw 0 1 1) s = .next t :=
  ⟨by decide, by decide, .inr (by decide), rfl⟩

/-- KeySkipsTestTheKey: the first and the last key. -/
theorem test_witness_key_skips : (State.reset.reg 0).toNat = (0 : Key).val ∧
    ((State.reset.setReg 4 15).reg 4).toNat = (15 : Key).val := by decide

/-- BadKeyIndexFaults: the least and the greatest bad index. -/
theorem test_witness_bad_key : 15 < ((State.reset.setReg 4 16).reg 4).toNat ∧
    15 < ((State.reset.setReg 4 255).reg 4).toNat := by decide

/-- WaitkTakesLowestKeyOrWaits: the lowest pressed key the first, and the last; and no key. -/
theorem test_witness_waitk :
    ((withKey 0 State.reset).pressed 0 = true ∧ ∀ j, j < (0 : Key) → (withKey 0 State.reset).pressed j = false) ∧
    ((withKey 15 State.reset).pressed 15 = true ∧ ∀ j, j < (15 : Key) → (withKey 15 State.reset).pressed j = false) ∧
    ∀ k, State.reset.pressed k = false := by decide

/-- WaitkStallsUntilKey. -/
theorem test_witness_waitk_stalls : (start 0xF20A []).fault = none ∧
    decode (start 0xF20A []).fetchWord = .instr (.waitk 2) ∧ ∀ k, (start 0xF20A []).pressed k = false := by decide

/-- DecodeOfEncode, for the one instruction with something to check; EncodeOfDecode. -/
theorem test_witness_decode_encode : (Instr.drw 15 15 15).wellFormed = true ∧ (Instr.jp 0xFFF).wellFormed = true ∧
    decode 0xDFFF = .instr (.drw 15 15 15) := by decide

/-- DispatchIsTheOpcodeMap: a word that hits a row, and one that hits none. -/
theorem test_witness_opcode_map : decode 0x8AB4 = .instr (.add 10 11) ∧ (Instr.add 0 0).row ∈ opcodeMap ∧
    (Instr.add 0 0).row.hits 0x8AB4 = true ∧ ∀ r ∈ opcodeMap, r.hits 0x8AB8 = false := by decide

/-- StepRunsDecodedInstruction, PcFollowsTheTable (no fault), StepIgnoresSoundTimerAndKeyWait. -/
theorem test_witness_step : (start 0x632A []).fault = none ∧ decode (start 0x632A []).fetchWord = .instr (.ldi 3 0x2A) ∧
    after (step (start 0x632A [])) (fun t => t.fault == none) = true := by decide

/-- UnknownWordFaults. -/
theorem test_witness_unknown : State.reset.fault = none ∧ ∀ i, decode State.reset.fetchWord ≠ .instr i := by
  refine ⟨rfl, fun i => ?_⟩
  rw [show decode State.reset.fetchWord = .unknown 0x0000 by decide]
  exact Verdict.noConfusion

/-- HaltedCoreStaysAsItIs. -/
theorem test_witness_halted : (State.reset.setFault (some .stackOverflow)).fault = some .stackOverflow := by decide

/-- FaultsArePrecise and PcFollowsTheTable (the faulting case): a RET with an empty stack. -/
theorem test_witness_faulting_step :
    let s := start 0x00EE []
    let t := stateOf (step s)
    s.fault = none ∧ decode s.fetchWord = .instr .ret ∧ step s = .next t ∧ t.fault = some .stackUnderflow :=
  ⟨by decide, by decide, rfl, by decide⟩

/-- StepNeverStops: the greatest `SP` of a run. -/
theorem test_witness_never_stops : (State.reset.setSp 16).sp.toNat ≤ 16 := by decide

/-- InstructionsWriteOnlyTheirTargets: a storing and a loading instruction that answer a next state. -/
theorem test_witness_frame :
    (∃ t, exec (.stm 15) (State.reset.setI 0xFF0) = .next t) ∧ (∃ t, exec (.ldm 15) (State.reset.setI 0xFF0) = .next t) ∧
    Memory.wf (State.reset.setI 0xFF0).mem = true :=
  ⟨⟨_, rfl⟩, ⟨_, rfl⟩, by decide⟩

/-- FlagWrittenBySixOnly: its two clauses. -/
theorem test_witness_flag :
    (writesFlag (.ldi 14 7) = false ∧ VF ∉ writtenRegs (.ldi 14 7) ∧ ∃ t, exec (.ldi 14 7) State.reset = .next t) ∧
    (writesFlag (.add 0 1) = true ∧ State.reset.fault = none ∧
      after (exec (.add 0 1) State.reset) (fun t => t.fault == none) = true) :=
  ⟨⟨by decide, by decide, _, rfl⟩, by decide, rfl, by decide⟩

/-- ResetMemoryAndEntryPoint: the addresses around the font, the font's first and last byte, and `pc`. -/
theorem test_witness_reset_memory : (0x04F < 4096 ∧ 0x04F < 0x050) ∧ (0x0A0 < 4096 ∧ 0x0A0 ≤ 0x0A0) ∧
    (0xFFF < 4096 ∧ 0x0A0 ≤ 0xFFF) ∧ 0 < 80 ∧ 79 < 80 ∧ State.reset.pc = 0x0200 := by decide

/-- StepKeepsInvariant and EveryScheduleKeepsInvariant: the reset state has the invariant and a step from it. -/
theorem test_witness_invariant : State.reset.inv = true ∧ (start 0x2300 []).inv = true ∧
    after (step (start 0x2300 [])) (fun t => t.sp == 1) = true := by decide

/-- FinishedRunIsFixed: a JP to itself at 0x200, and one reached with `pc` above memory. -/
theorem test_witness_finished : (start 0x1200 []).finished = true ∧ (startAt 0x1200 0x1200 []).finished = true := by
  decide

/-- PlacedWordRunsNext. -/
theorem test_witness_placed : Memory.wf State.reset.mem = true ∧ decodeTableWord 16 0xFF65 = some (.ldm 15) := by decide

/-- SetKeyRecordsLevel: the first and the last key, and the least bad index. -/
theorem test_witness_set_key : 0 = (0 : Key).val ∧ 15 = (15 : Key).val ∧ 16 ≤ 16 := by decide

/-- LoadersWriteOnlyTheirBytes: the longest program and one byte more; 80 bytes of font, and one more or fewer. -/
theorem test_witness_loaders : Memory.wf State.reset.mem = true ∧ (List.replicate 3584 (0 : Byte)).length ≤ 3584 ∧
    3584 < (List.replicate 3585 (0 : Byte)).length ∧ Config.classicFont.length = 80 ∧
    (List.replicate 81 (0 : Byte)).length ≠ 80 ∧ (List.replicate 79 (0 : Byte)).length ≠ 80 := by
  simp only [List.length_replicate]
  decide

end Sys2Proof.Tests
end

/-! SUPPORT. The four hexadecimal digits of a word as numbers (spec 30_encoding.md R71). -/

namespace Sys2Proof

theorem family_toNat (w : Word) : (family w).toNat = w.toNat / 4096 := by
  have hw : w.toNat < 65536 := w.isLt
  rw [family, BitVec.extractLsb'_toNat, Nat.shiftRight_eq_div_pow]
  exact Nat.mod_eq_of_lt (by omega)

theorem fieldX_toNat (w : Word) : (fieldX w).toNat = w.toNat / 256 % 16 := by
  rw [fieldX, BitVec.extractLsb'_toNat, Nat.shiftRight_eq_div_pow]

theorem fieldY_toNat (w : Word) : (fieldY w).toNat = w.toNat / 16 % 16 := by
  rw [fieldY, BitVec.extractLsb'_toNat, Nat.shiftRight_eq_div_pow]

theorem fieldN_toNat (w : Word) : (fieldN w).toNat = w.toNat % 16 := by
  rw [fieldN, BitVec.extractLsb'_toNat, Nat.shiftRight_zero]

/-- `nnn = x ++ y ++ n` (30_encoding.md R71). -/
theorem fieldNNN_split_digits (w : Word) : fieldNNN w = fieldX w ++ (fieldY w ++ fieldN w) := by
  rw [fieldNNN_split, fieldNN_split]

/-- Settles O33: each digit is a quotient and remainder of the word, and the wider fields split into digits. -/
theorem fieldsAreBitExtractions : Obligations.FieldsAreBitExtractions := fun w =>
  ⟨family_toNat w, fieldX_toNat w, fieldY_toNat w, fieldN_toNat w, fieldNN_split w, fieldNNN_split_digits w⟩

end Sys2Proof

/-! SUPPORT. Writing one register changes that register and nothing else (spec 40_arith_logic.md R100), and the
instructions whose whole effect is such a write: LDI, ADDI, MOV, OR, AND, XOR. -/

namespace Sys2Proof.Machine

/-- The register file is no `Part`, so replacing it keeps every part. -/
theorem Part.kept_setV (p : Part) (s : State) (w : Vector Byte 16) : p.kept s (s.setV w) := by
  cases p <;> simp [Part.kept]

/-- To frame a change of the register file it is enough to look at the registers. -/
theorem Frame.setV {regs : List Reg} {s : State} {w : Vector Byte 16}
    (h : ∀ r, r ∉ regs → (s.setV w).reg r = s.reg r) (parts : List Part) : Frame regs parts s (s.setV w) :=
  ⟨h, fun p _ => p.kept_setV s w⟩

theorem State.setReg_reg_self (s : State) (x : Reg) (b : Byte) : (s.setReg x b).reg x = b := by simp

theorem State.setReg_reg_of_ne (s : State) {x r : Reg} (b : Byte) (h : r ≠ x) :
    (s.setReg x b).reg r = s.reg r := by
  simp [h]

theorem State.setReg_frame (s : State) (x : Reg) (b : Byte) : Frame [x] [] s (s.setReg x b) :=
  Frame.setV (fun _ hr => s.setReg_reg_of_ne b (List.ne_of_not_mem_cons hr)) []

/-- Settles O1: both are one register write, of `nn` or of what `V[y]` held. -/
theorem ldiAndMovLoadRegister : Obligations.LdiAndMovLoadRegister := fun x y nn s =>
  ⟨⟨s.setReg x nn, rfl, s.setReg_reg_self x nn, s.setReg_frame x nn⟩,
   ⟨s.setReg x (s.reg y), rfl, s.setReg_reg_self x (s.reg y), s.setReg_frame x (s.reg y)⟩⟩

/-- Settles O2: one register write, of the narrowed sum, which is the sum modulo 256. -/
theorem addiWrapsWithoutFlag : Obligations.AddiWrapsWithoutFlag := fun x nn s =>
  ⟨s.setReg x (addByte (s.reg x) nn), rfl, by rw [State.setReg_reg_self, addByte_toNat], s.setReg_frame x _⟩

/-- Settles O3: each is one register write, and bit `k` of the byte written is the operation on bit `k` of the
operands. -/
theorem logicActsBitByBit : Obligations.LogicActsBitByBit := by
  intro x y s
  refine ⟨⟨s.setReg x (s.reg x ||| s.reg y), rfl, fun k _ => ?or, s.setReg_frame x _⟩,
    ⟨s.setReg x (s.reg x &&& s.reg y), rfl, fun k _ => ?and, s.setReg_frame x _⟩,
    ⟨s.setReg x (s.reg x ^^^ s.reg y), rfl, fun k _ => ?xor, s.setReg_frame x _⟩⟩
  case or => rw [State.setReg_reg_self, BitVec.getLsbD_or]
  case and => rw [State.setReg_reg_self, BitVec.getLsbD_and]
  case xor => rw [State.setReg_reg_self, BitVec.getLsbD_xor]

end Sys2Proof.Machine

/-! SUPPORT. Setting `pc` changes `pc` and nothing else, and the instructions whose whole effect that is: JP
(spec 41_control_flow.md R122) and the skips on an immediate, SEI and SNEI (R125, R126). -/

namespace Sys2Proof.Machine

theorem zext16OfAddr_toNat (nnn : Addr12) : (zext16OfAddr nnn).toNat = nnn.toNat :=
  BitVec.toNat_setWidth_of_le (by omega)

/-- `pc` is the one part that setting `pc` does not keep. -/
theorem Part.kept_setPc {p : Part} (hp : p ≠ .pc) (s : State) (a : Word) : p.kept s (s.setPc a) := by
  cases p
  case pc => exact absurd rfl hp
  all_goals simp [Part.kept]

theorem State.setPc_frame (s : State) (a : Word) : Frame [] [.pc] s (s.setPc a) :=
  ⟨fun r _ => s.setPc_reg a r, fun _ hp => Part.kept_setPc (List.ne_of_not_mem_cons hp) s a⟩

theorem exec_jp (nnn : Addr12) (s : State) : exec (.jp nnn) s = .next (s.setPc (zext16OfAddr nnn)) := rfl

theorem exec_sei (x : Reg) (nn : Byte) (s : State) :
    exec (.sei x nn) s = .next (s.setPc (if s.reg x = nn then s.pc + 2 else s.pc)) := by
  have hskip : exec (.sei x nn) s = .next (s.skipIf (s.reg x == nn)) := rfl
  simp only [hskip, State.skipIf_eq, beq_iff_eq]

theorem exec_snei (x : Reg) (nn : Byte) (s : State) :
    exec (.snei x nn) s = .next (s.setPc (if s.reg x = nn then s.pc else s.pc + 2)) := by
  have hskip : exec (.snei x nn) s = .next (s.skipIf (s.reg x != nn)) := rfl
  simp only [hskip, State.skipIf_eq, bne_iff_ne, ne_eq, ite_not]

/-- Settles O8: JP is one write of `pc`, and extending `nnn` by zeros keeps its value. -/
theorem jpGoesToAddress : Obligations.JpGoesToAddress := fun nnn s =>
  ⟨s.setPc (zext16OfAddr nnn), exec_jp nnn s, zext16OfAddr_toNat nnn, s.setPc_frame _⟩

/-- Settles O13: each skip is one write of `pc`, to the value its comparison selects. -/
theorem immediateSkipsCompare : Obligations.ImmediateSkipsCompare := fun x nn s =>
  ⟨⟨_, exec_sei x nn s, rfl, s.setPc_frame _⟩, ⟨_, exec_snei x nn s, rfl, s.setPc_frame _⟩⟩

end Sys2Proof.Machine

/-! SUPPORT. Setting `I` changes `I` and nothing else, and two instructions whose whole effect that is: LDX and ADDX
(spec 42_memory_bcd.md R141, R142). -/

namespace Sys2Proof.Machine

theorem zext16OfByte_toNat (v : Byte) : (zext16OfByte v).toNat = v.toNat :=
  BitVec.toNat_setWidth_of_le (by omega)

/-- `I` is the one part that setting `I` does not keep. -/
theorem Part.kept_setI {p : Part} (hp : p ≠ .index) (s : State) (a : Word) : p.kept s (s.setI a) := by
  cases p
  case index => exact absurd rfl hp
  all_goals simp [Part.kept]

theorem State.setI_frame (s : State) (a : Word) : Frame [] [.index] s (s.setI a) :=
  ⟨fun r _ => s.setI_reg a r, fun _ hp => Part.kept_setI (List.ne_of_not_mem_cons hp) s a⟩

theorem exec_ldx (nnn : Addr12) (s : State) : exec (.ldx nnn) s = .next (s.setI (zext16OfAddr nnn)) := rfl

theorem exec_addx (x : Reg) (s : State) : exec (.addx x) s = .next (s.setI (s.i + zext16OfByte (s.reg x))) := rfl

/-- Settles O16: LDX is one write of `I`, and extending `nnn` by zeros keeps its value. -/
theorem ldxLoadsIndex : Obligations.LdxLoadsIndex := fun nnn s =>
  ⟨s.setI (zext16OfAddr nnn), exec_ldx nnn s, zext16OfAddr_toNat nnn, s.setI_frame _⟩

/-- Settles O17: ADDX is one write of `I`, of a 16-bit sum, which is the sum of the values modulo 65536. -/
theorem addxWrapsAtSixteenBits : Obligations.AddxWrapsAtSixteenBits := by
  intro x s
  refine ⟨s.setI (s.i + zext16OfByte (s.reg x)), exec_addx x s, ?sum, s.setI_frame _⟩
  case sum => rw [State.setI_i, BitVec.toNat_add, zext16OfByte_toNat]

end Sys2Proof.Machine

/-! SUPPORT. Replacing the framebuffer changes the screen and nothing else, and the instruction whose whole effect that
is: CLS (spec 43_display.md R161). -/

namespace Sys2Proof.Machine

@[simp] theorem State.setFb_pixel (s : State) (a : Framebuffer) (xx : Col) (yy : Row) :
    (s.setFb a).pixel xx yy = a.pixel xx yy := rfl

/-- The screen is the one part that replacing the framebuffer does not keep. -/
theorem Part.kept_setFb {p : Part} (hp : p ≠ .screen) (s : State) (a : Framebuffer) : p.kept s (s.setFb a) := by
  cases p
  case screen => exact absurd rfl hp
  all_goals simp [Part.kept]

theorem State.setFb_frame (s : State) (a : Framebuffer) : Frame [] [.screen] s (s.setFb a) :=
  ⟨fun r _ => s.setFb_reg a r, fun _ hp => Part.kept_setFb (List.ne_of_not_mem_cons hp) s a⟩

theorem exec_cls (s : State) : exec .cls s = .next (s.setFb blankScreen) := rfl

/-- Settles O25: CLS is one replacement of the framebuffer, by the blank screen, no pixel of which is lit. -/
theorem clsTurnsEveryPixelOff : Obligations.ClsTurnsEveryPixelOff := by
  intro s
  refine ⟨s.setFb blankScreen, exec_cls s, fun xx yy => ?off, s.setFb_frame blankScreen⟩
  case off => rw [State.setFb_pixel, blankScreen_pixel]

end Sys2Proof.Machine

/-! SUPPORT. Setting one timer changes that timer and nothing else, the other timer included, and the instructions that
move a byte between a register and a timer: LDDT, STDT, STST (spec 44_input_timers.md R176 to R178). -/

namespace Sys2Proof.Machine

/-- `DT` is the one part that setting `DT` does not keep. -/
theorem Part.kept_setDt {p : Part} (hp : p ≠ .delay) (s : State) (b : Byte) : p.kept s (s.setDt b) := by
  cases p
  case delay => exact absurd rfl hp
  all_goals simp [Part.kept]

/-- `ST` is the one part that setting `ST` does not keep. -/
theorem Part.kept_setSt {p : Part} (hp : p ≠ .sound) (s : State) (b : Byte) : p.kept s (s.setSt b) := by
  cases p
  case sound => exact absurd rfl hp
  all_goals simp [Part.kept]

theorem State.setDt_frame (s : State) (b : Byte) : Frame [] [.delay] s (s.setDt b) :=
  ⟨fun r _ => s.setDt_reg b r, fun _ hp => Part.kept_setDt (List.ne_of_not_mem_cons hp) s b⟩

theorem State.setSt_frame (s : State) (b : Byte) : Frame [] [.sound] s (s.setSt b) :=
  ⟨fun r _ => s.setSt_reg b r, fun _ hp => Part.kept_setSt (List.ne_of_not_mem_cons hp) s b⟩

theorem exec_lddt (x : Reg) (s : State) : exec (.lddt x) s = .next (s.setReg x s.dt) := rfl

theorem exec_stdt (x : Reg) (s : State) : exec (.stdt x) s = .next (s.setDt (s.reg x)) := rfl

theorem exec_stst (x : Reg) (s : State) : exec (.stst x) s = .next (s.setSt (s.reg x)) := rfl

/-- Settles O32: LDDT is one register write, of `DT`; STDT and STST are one write each, of `DT` and of `ST`. -/
theorem timerAccessMovesBytes : Obligations.TimerAccessMovesBytes := by
  intro x s
  refine ⟨⟨s.setReg x s.dt, exec_lddt x s, ?lddt, s.setReg_frame x s.dt⟩,
    ⟨s.setDt (s.reg x), exec_stdt x s, ?stdt, s.setDt_frame (s.reg x)⟩,
    ⟨s.setSt (s.reg x), exec_stst x s, ?stst, s.setSt_frame (s.reg x)⟩⟩
  case lddt => exact s.setReg_reg_self x s.dt
  case stdt => exact s.setDt_dt (s.reg x)
  case stst => exact s.setSt_st (s.reg x)

end Sys2Proof.Machine

/-! SUPPORT. Frames of two changes, one after the other, join to the frame of both; and the host's `tick_timers`, which
sets `DT` and then `ST` (spec 60_exceptions.md R225). -/

namespace Sys2Proof.Machine

theorem Part.kept_trans {p : Part} {s t u : State} (hst : p.kept s t) (htu : p.kept t u) : p.kept s u := by
  cases p
  case stack =>
    obtain ⟨hsp, hslot⟩ := hst
    obtain ⟨hsp', hslot'⟩ := htu
    exact ⟨hsp'.trans hsp, fun k => (hslot' k).trans (hslot k)⟩
  case keys => exact fun k => (htu k).trans (hst k)
  case screen => exact fun xx yy => (htu xx yy).trans (hst xx yy)
  case memory => exact fun a => (htu a).trans (hst a)
  all_goals exact Eq.trans htu hst

/-- What neither of two changes may touch, both together keep. -/
theorem Frame.trans {regs regs' : List Reg} {parts parts' : List Part} {s t u : State}
    (hst : Frame regs parts s t) (htu : Frame regs' parts' t u) : Frame (regs ++ regs') (parts ++ parts') s u := by
  obtain ⟨hreg, hpart⟩ := hst
  obtain ⟨hreg', hpart'⟩ := htu
  refine ⟨fun r hr => ?regs, fun p hp => ?parts⟩
  case regs =>
    have hr₁ : r ∉ regs := fun h => hr (List.mem_append_left regs' h)
    have hr₂ : r ∉ regs' := fun h => hr (List.mem_append_right regs h)
    exact (hreg' r hr₂).trans (hreg r hr₁)
  case parts =>
    have hp₁ : p ∉ parts := fun h => hp (List.mem_append_left parts' h)
    have hp₂ : p ∉ parts' := fun h => hp (List.mem_append_right parts h)
    exact Part.kept_trans (hpart p hp₁) (hpart' p hp₂)

/-- Truncated subtraction on naturals is the floor at zero. -/
theorem tickDown_toNat (b : Byte) : (tickDown b).toNat = b.toNat - 1 := by
  unfold tickDown
  split
  case isTrue hpos => exact BitVec.toNat_sub_of_le (BitVec.le_def.mpr hpos)
  case isFalse hzero => omega

@[simp] theorem State.tickTimers_dt (s : State) : s.tickTimers.dt = tickDown s.dt := rfl

@[simp] theorem State.tickTimers_st (s : State) : s.tickTimers.st = tickDown s.st := rfl

theorem State.tickTimers_frame (s : State) : Frame [] [.delay, .sound] s s.tickTimers :=
  (s.setDt_frame (tickDown s.dt)).trans ((s.setDt (tickDown s.dt)).setSt_frame (tickDown s.st))

theorem hostCall_tickTimers (s : State) : hostCall .tickTimers s = .next (.done, s.tickTimers) := rfl

/-- Settles O55: the call sets each timer once, to what it held ticked down. -/
theorem tickTakesOneOffEachTimer : Obligations.TickTakesOneOffEachTimer := by
  intro s
  refine ⟨s.tickTimers, hostCall_tickTimers s, ?dt, ?st, s.tickTimers_frame⟩
  case dt => rw [State.tickTimers_dt, tickDown_toNat]
  case st => rw [State.tickTimers_st, tickDown_toNat]

end Sys2Proof.Machine

/-! SUPPORT. Decoder, encoder and opcode map agree (spec 30_encoding.md sections 1 and 3): what the decoder answers for
a word, and that the word with the fields of its format is the word itself. -/

namespace Sys2Proof

/-- Settles O35: the fields of a laid-out word are the operands, and each dispatch key selects the instruction's arm. -/
theorem decodeOfEncode : Obligations.DecodeOfEncode := by
  intro i hwf
  cases i
  case cls | ret => rfl
  case jp | call | ldx | jpv0 => simp [encode, decode]
  case sei | snei | ldi | addi | rnd => simp [encode, decode]
  case ser | sner => simp [encode, decode, decodeLow0]
  case mov | or | and | xor | add | sub | shr | subn | shl => simp [encode, decode, decode8]
  case drw x y n =>
    have hn : n < 16 := by simpa [Instr.wellFormed, Instr.rowCountFits] using hwf
    simp [encode, decode, Nat.mod_eq_of_lt hn]
  case skp | sknp => simp [encode, decode, decodeE]
  case lddt | waitk | stdt | stst | addx | font | bcd | stm | ldm => simp [encode, decode, decodeF]

/-! ### A word is laid out from its own fields -/

theorem formatA_fields (w : Word) : formatA (family w) (fieldNNN w) = w := (word_split w).symm

theorem formatI_fields (w : Word) : formatI (family w) (regOf (fieldX w)) (fieldNN w) = w := by
  conv_rhs => rw [word_split w, fieldNNN_split]
  exact BitVec.append_assoc

theorem formatR_fields (w : Word) : formatR (family w) (regOf (fieldX w)) (regOf (fieldY w)) (fieldN w) = w := by
  conv_rhs => rw [word_split w, fieldNNN_split_digits]
  rw [formatR, regField_regOf, regField_regOf, BitVec.append_assoc, BitVec.append_assoc]
  rfl

/-! ### What the decoder answers for a word -/

theorem drw_fieldN_wellFormed {w : Word} {x y : Reg} : (Instr.drw x y (fieldN w).toNat).wellFormed = true :=
  decide_eq_true (fieldN w).isLt

theorem encode_drw_fieldN (w : Word) (x y : Reg) :
    encode (.drw x y (fieldN w).toNat) = formatR 0xD#4 x y (fieldN w) := by
  rw [encode, BitVec.ofNat_toNat, BitVec.setWidth_eq]

/-- The verdict is right for the word: an instruction of which it is the word, or *unknown* with the word itself. -/
def Verdict.fits (w : Word) : Verdict → Prop
  | .instr i => encode i = w ∧ i.wellFormed = true
  | .unknown v => v = w

theorem decode0_fits (w : Word) : (decode0 w).fits w := by
  unfold decode0
  split
  case isTrue h => exact ⟨h.symm, rfl⟩
  case isFalse =>
    split
    case isTrue h => exact ⟨h.symm, rfl⟩
    case isFalse => rfl

/-- Families 5 and 9. -/
theorem decodeLow0_fits {i : Reg → Reg → Instr} {w : Word}
    (henc : ∀ x y, encode (i x y) = formatR (family w) x y 0x0#4) (hwf : ∀ x y, (i x y).wellFormed = true) :
    (decodeLow0 i w).fits w := by
  unfold decodeLow0
  split
  case isTrue h => exact ⟨by rw [henc, ← h, formatR_fields], hwf _ _⟩
  case isFalse => rfl

theorem decode8_fits {w : Word} (hf : family w = 0x8#4) : (decode8 w).fits w := by
  have hw := formatR_fields w
  rw [hf] at hw
  unfold decode8
  split
  case h_10 => rfl
  all_goals exact ⟨by rwa [‹fieldN w = _›] at hw, rfl⟩

theorem decodeE_fits {w : Word} (hf : family w = 0xE#4) : (decodeE w).fits w := by
  have hw := formatI_fields w
  rw [hf] at hw
  unfold decodeE
  split
  case h_3 => rfl
  all_goals exact ⟨by rwa [‹fieldNN w = _›] at hw, rfl⟩

theorem decodeF_fits {w : Word} (hf : family w = 0xF#4) : (decodeF w).fits w := by
  have hw := formatI_fields w
  rw [hf] at hw
  unfold decodeF
  split
  case h_10 => rfl
  all_goals exact ⟨by rwa [‹fieldNN w = _›] at hw, rfl⟩

theorem decode_fits (w : Word) : (decode w).fits w := by
  have hA := formatA_fields w
  have hI := formatI_fields w
  have hR := formatR_fields w
  unfold decode
  split
  case h_1 => exact decode0_fits w
  case h_6 hf | h_10 hf => exact decodeLow0_fits (fun _ _ => by rw [hf]; rfl) (fun _ _ => rfl)
  case h_9 hf => exact decode8_fits hf
  case h_14 hf =>
    rw [hf] at hR
    exact ⟨(encode_drw_fieldN w _ _).trans hR, drw_fieldN_wellFormed⟩
  case h_15 hf => exact decodeE_fits hf
  case h_16 =>
    simp only [imp_false] at *
    exact decodeF_fits (by bv_omega)
  case h_2 hf | h_3 hf | h_11 hf | h_12 hf => exact ⟨by rwa [hf] at hA, rfl⟩
  case h_4 hf | h_5 hf | h_7 hf | h_8 hf | h_13 hf => exact ⟨by rwa [hf] at hI, rfl⟩

/-- Settles O36: the word is laid out from the fields the decoder read. -/
theorem encodeOfDecode : Obligations.EncodeOfDecode := by
  intro w i h
  have hfits := decode_fits w
  rwa [h] at hfits

theorem decode_unknown {w v : Word} (h : decode w = .unknown v) : v = w := by
  have hfits := decode_fits w
  rwa [h] at hfits

/-! ### The dispatch and the opcode map -/

theorem Instr.row_mem_opcodeMap (i : Instr) : i.row ∈ opcodeMap := by
  cases i <;> simp [opcodeMap, Instr.row]

theorem exists_row_of_mem_opcodeMap {r : OpcodeRow} (h : r ∈ opcodeMap) : ∃ i : Instr, i.row = r := by
  rcases List.mem_append.1 h with h | h
  all_goals
    obtain ⟨i, -, hi⟩ := List.mem_map.1 h
    exact ⟨i, hi⟩

open Laws in
theorem Instr.row_hits_encode : (i : Instr) → i.row.hits (encode i) = true
  | .cls => EncodeRow.cls | .ret => EncodeRow.ret | .jp a => EncodeRow.jp a | .call a => EncodeRow.call a
  | .sei x a => EncodeRow.sei x a | .snei x a => EncodeRow.snei x a | .ser x y => EncodeRow.ser x y
  | .ldi x a => EncodeRow.ldi x a | .addi x a => EncodeRow.addi x a | .mov x y => EncodeRow.mov x y
  | .or x y => EncodeRow.or x y | .and x y => EncodeRow.and x y | .xor x y => EncodeRow.xor x y
  | .add x y => EncodeRow.add x y | .sub x y => EncodeRow.sub x y | .shr x y => EncodeRow.shr x y
  | .subn x y => EncodeRow.subn x y | .shl x y => EncodeRow.shl x y | .sner x y => EncodeRow.sner x y
  | .ldx a => EncodeRow.ldx a | .jpv0 a => EncodeRow.jpv0 a | .rnd x a => EncodeRow.rnd x a
  | .drw x y n => EncodeRow.drw x y n | .skp x => EncodeRow.skp x | .sknp x => EncodeRow.sknp x
  | .lddt x => EncodeRow.lddt x | .waitk x => EncodeRow.waitk x | .stdt x => EncodeRow.stdt x
  | .stst x => EncodeRow.stst x | .addx x => EncodeRow.addx x | .font x => EncodeRow.font x
  | .bcd x => EncodeRow.bcd x | .stm x => EncodeRow.stm x | .ldm x => EncodeRow.ldm x

/-! A word that hits a row has that row's fixed fields, so it is laid out from them and from its own other fields. -/

section Hits
variable {w : Word} {f : Nibble}

theorem eq_of_hits_FFFF {v : Word} (h : (w &&& 0xFFFF#16 == v) = true) : w = v := by
  rwa [beq_iff_eq, show 0xFFFF#16 = BitVec.allOnes 16 from rfl, BitVec.and_allOnes] at h

theorem family_of_hits (h : (w &&& 0xF000#16 == formatA f 0) = true) : family w = f := by
  have hmask : formatA (family w) 0 = formatA f 0 := (and_F000 w).symm.trans (eq_of_beq h)
  simpa using congrArg family hmask

theorem formatA_of_hits (h : (w &&& 0xF000#16 == formatA f 0) = true) : formatA f (fieldNNN w) = w := by
  rw [← family_of_hits h, formatA_fields]

theorem formatI_of_hits (h : (w &&& 0xF000#16 == formatA f 0) = true) :
    formatI f (regOf (fieldX w)) (fieldNN w) = w := by
  rw [← family_of_hits h, formatI_fields]

theorem encode_drw_of_hits (h : (w &&& 0xF000#16 == formatA 0xD#4 0) = true) :
    encode (.drw (regOf (fieldX w)) (regOf (fieldY w)) (fieldN w).toNat) = w := by
  rw [encode_drw_fieldN, ← family_of_hits h, formatR_fields]

theorem formatR_of_hits {n : Nibble} (h : (w &&& 0xF00F#16 == formatR f 0 0 n) = true) :
    formatR f (regOf (fieldX w)) (regOf (fieldY w)) n = w := by
  have hmask : formatR (family w) 0 0 (fieldN w) = formatR f 0 0 n := by
    rw [← eq_of_beq h, and_F00F, formatR, BitVec.append_assoc, BitVec.append_assoc]
    rfl
  have hf : family w = f := by simpa using congrArg family hmask
  have hn : fieldN w = n := by simpa using congrArg fieldN hmask
  rw [← hf, ← hn, formatR_fields]

theorem formatS_of_hits {nn : Byte} (h : (w &&& 0xF0FF#16 == formatI f 0 nn) = true) :
    formatI f (regOf (fieldX w)) nn = w := by
  have hmask : formatI (family w) 0 (fieldNN w) = formatI f 0 nn := by
    rw [← eq_of_beq h, and_F0FF, formatI, BitVec.append_assoc]
    rfl
  have hf : family w = f := by simpa using congrArg family hmask
  have hnn : fieldNN w = nn := by simpa using congrArg fieldNN hmask
  rw [← hf, ← hnn, formatI_fields]

end Hits

theorem Instr.exists_of_row_hits {w : Word} : (j : Instr) → j.row.hits w = true →
    ∃ i : Instr, i.wellFormed = true ∧ encode i = w ∧ i.row = j.row
  | .cls, h => ⟨.cls, rfl, (eq_of_hits_FFFF h).symm, rfl⟩
  | .ret, h => ⟨.ret, rfl, (eq_of_hits_FFFF h).symm, rfl⟩
  | .jp _, h => ⟨.jp (fieldNNN w), rfl, formatA_of_hits h, rfl⟩
  | .call _, h => ⟨.call (fieldNNN w), rfl, formatA_of_hits h, rfl⟩
  | .sei _ _, h => ⟨.sei (regOf (fieldX w)) (fieldNN w), rfl, formatI_of_hits h, rfl⟩
  | .snei _ _, h => ⟨.snei (regOf (fieldX w)) (fieldNN w), rfl, formatI_of_hits h, rfl⟩
  | .ser _ _, h => ⟨.ser (regOf (fieldX w)) (regOf (fieldY w)), rfl, formatR_of_hits h, rfl⟩
  | .ldi _ _, h => ⟨.ldi (regOf (fieldX w)) (fieldNN w), rfl, formatI_of_hits h, rfl⟩
  | .addi _ _, h => ⟨.addi (regOf (fieldX w)) (fieldNN w), rfl, formatI_of_hits h, rfl⟩
  | .mov _ _, h => ⟨.mov (regOf (fieldX w)) (regOf (fieldY w)), rfl, formatR_of_hits h, rfl⟩
  | .or _ _, h => ⟨.or (regOf (fieldX w)) (regOf (fieldY w)), rfl, formatR_of_hits h, rfl⟩
  | .and _ _, h => ⟨.and (regOf (fieldX w)) (regOf (fieldY w)), rfl, formatR_of_hits h, rfl⟩
  | .xor _ _, h => ⟨.xor (regOf (fieldX w)) (regOf (fieldY w)), rfl, formatR_of_hits h, rfl⟩
  | .add _ _, h => ⟨.add (regOf (fieldX w)) (regOf (fieldY w)), rfl, formatR_of_hits h, rfl⟩
  | .sub _ _, h => ⟨.sub (regOf (fieldX w)) (regOf (fieldY w)), rfl, formatR_of_hits h, rfl⟩
  | .shr _ _, h => ⟨.shr (regOf (fieldX w)) (regOf (fieldY w)), rfl, formatR_of_hits h, rfl⟩
  | .subn _ _, h => ⟨.subn (regOf (fieldX w)) (regOf (fieldY w)), rfl, formatR_of_hits h, rfl⟩
  | .shl _ _, h => ⟨.shl (regOf (fieldX w)) (regOf (fieldY w)), rfl, formatR_of_hits h, rfl⟩
  | .sner _ _, h => ⟨.sner (regOf (fieldX w)) (regOf (fieldY w)), rfl, formatR_of_hits h, rfl⟩
  | .ldx _, h => ⟨.ldx (fieldNNN w), rfl, formatA_of_hits h, rfl⟩
  | .jpv0 _, h => ⟨.jpv0 (fieldNNN w), rfl, formatA_of_hits h, rfl⟩
  | .rnd _ _, h => ⟨.rnd (regOf (fieldX w)) (fieldNN w), rfl, formatI_of_hits h, rfl⟩
  | .drw _ _ _, h => ⟨.drw (regOf (fieldX w)) (regOf (fieldY w)) (fieldN w).toNat, drw_fieldN_wellFormed,
       encode_drw_of_hits h, rfl⟩
  | .skp _, h => ⟨.skp (regOf (fieldX w)), rfl, formatS_of_hits h, rfl⟩
  | .sknp _, h => ⟨.sknp (regOf (fieldX w)), rfl, formatS_of_hits h, rfl⟩
  | .lddt _, h => ⟨.lddt (regOf (fieldX w)), rfl, formatS_of_hits h, rfl⟩
  | .waitk _, h => ⟨.waitk (regOf (fieldX w)), rfl, formatS_of_hits h, rfl⟩
  | .stdt _, h => ⟨.stdt (regOf (fieldX w)), rfl, formatS_of_hits h, rfl⟩
  | .stst _, h => ⟨.stst (regOf (fieldX w)), rfl, formatS_of_hits h, rfl⟩
  | .addx _, h => ⟨.addx (regOf (fieldX w)), rfl, formatS_of_hits h, rfl⟩
  | .font _, h => ⟨.font (regOf (fieldX w)), rfl, formatS_of_hits h, rfl⟩
  | .bcd _, h => ⟨.bcd (regOf (fieldX w)), rfl, formatS_of_hits h, rfl⟩
  | .stm _, h => ⟨.stm (regOf (fieldX w)), rfl, formatS_of_hits h, rfl⟩
  | .ldm _, h => ⟨.ldm (regOf (fieldX w)), rfl, formatS_of_hits h, rfl⟩

/-- Settles O37: a decoded word is the instruction's own word, which hits its row; a word that hits a row is the word of
an instruction of that row, which it decodes to; so a word hits no row exactly when it decodes to nothing. -/
theorem dispatchIsTheOpcodeMap : Obligations.DispatchIsTheOpcodeMap := by
  intro w
  have hhit : ∀ i, decode w = .instr i → i.row ∈ opcodeMap ∧ i.row.hits w = true := by
    intro i hi
    have hw : encode i = w := (encodeOfDecode w i hi).1
    exact ⟨i.row_mem_opcodeMap, by rw [← hw, i.row_hits_encode]⟩
  have hdecoded : ∀ r ∈ opcodeMap, r.hits w = true → ∃ i, decode w = .instr i ∧ i.row = r := by
    intro r hr hrw
    obtain ⟨j, rfl⟩ := exists_row_of_mem_opcodeMap hr
    obtain ⟨i, hwf, rfl, hrow⟩ := Instr.exists_of_row_hits j hrw
    exact ⟨i, decodeOfEncode i hwf, hrow⟩
  refine ⟨hhit, hdecoded, fun hnone => ?_, fun hunknown r hr => ?_⟩
  · cases hv : decode w with
    | instr i =>
      obtain ⟨hmem, hrow⟩ := hhit i hv
      simp [hnone i.row hmem] at hrow
    | unknown v => rw [decode_unknown hv]
  · by_contra hrw
    obtain ⟨i, hi, -⟩ := hdecoded r hr (by simpa using hrw)
    simp [hunknown] at hi

/-- Settles O34: each word is evaluated; the operands and the verdicts are those the spec writes down. -/
theorem specWordsDecode : Obligations.SpecWordsDecode := by
  unfold Obligations.SpecWordsDecode
  decide

end Sys2Proof

/-! SUPPORT. What the remaining single updates of the state leave alone, beside the register file, `pc`, `I`, the screen
and the timers: the draw counter, the stack, the keypad, the key-wait state, memory, `FAULT`. -/

namespace Sys2Proof.Machine

theorem Frame.refl (regs : List Reg) (parts : List Part) (s : State) : Frame regs parts s s :=
  Frame.setV (w := s.v) (fun _ _ => rfl) parts

/-- A frame that allows more changes follows from one that allows fewer. -/
theorem Frame.mono {regs regs' : List Reg} {parts parts' : List Part} {s t : State} (h : Frame regs parts s t)
    (hregs : regs ⊆ regs') (hparts : parts ⊆ parts') : Frame regs' parts' s t :=
  ⟨fun r hr => h.1 r (fun hin => hr (hregs hin)), fun p hp => h.2 p (fun hin => hp (hparts hin))⟩

/-- To frame a change of one part it is enough that the registers and every other part are kept. -/
theorem Frame.of_part {part : Part} {s t : State} (hreg : ∀ r, t.reg r = s.reg r)
    (hkept : ∀ p, p ≠ part → Part.kept p s t) : Frame [] [part] s t :=
  ⟨fun r _ => hreg r, fun p hp => hkept p (List.ne_of_not_mem_cons hp)⟩

theorem State.setDraws_frame (s : State) (n : Nat) : Frame [] [.draws] s (s.setDraws n) :=
  Frame.of_part (fun _ => rfl) (fun p hp => by cases p <;> simp [Part.kept] at hp ⊢)

theorem State.setSp_frame (s : State) (b : Byte) : Frame [] [.stack] s (s.setSp b) :=
  Frame.of_part (fun _ => rfl) (fun p hp => by cases p <;> simp [Part.kept] at hp ⊢)

theorem State.setStk_frame (s : State) (a : Vector Word 16) : Frame [] [.stack] s (s.setStk a) :=
  Frame.of_part (fun _ => rfl) (fun p hp => by cases p <;> simp [Part.kept] at hp ⊢)

theorem State.setKeys_frame (s : State) (a : Vector Bool 16) : Frame [] [.keys] s (s.setKeys a) :=
  Frame.of_part (fun _ => rfl) (fun p hp => by cases p <;> simp [Part.kept] at hp ⊢)

theorem State.setKw_frame (s : State) (k : KeyWait) : Frame [] [.keyWait] s (s.setKw k) :=
  Frame.of_part (fun _ => rfl) (fun p hp => by cases p <;> simp [Part.kept] at hp ⊢)

theorem State.setMem_frame (s : State) (m : Memory) : Frame [] [.memory] s (s.setMem m) :=
  Frame.of_part (fun _ => rfl) (fun p hp => by cases p <;> simp [Part.kept] at hp ⊢)

theorem State.setFault_frame (s : State) (f : Option CoreFault) : Frame [] [.fault] s (s.setFault f) :=
  Frame.of_part (fun _ => rfl) (fun p hp => by cases p <;> simp [Part.kept] at hp ⊢)

end Sys2Proof.Machine

/-! SUPPORT. The instructions that write a result and a flag, ADD, SUB, SUBN, SHR, SHL, and RND (spec 40_arith_logic.md
section 2). -/

namespace Sys2Proof.Machine

theorem flagByte_decide (p : Prop) [Decidable p] : flagByte (decide p) = if p then 1 else 0 := by
  by_cases hp : p <;> simp [flagByte, hp]

theorem flagByte_toNat (f : Bool) : (flagByte f).toNat = f.toNat := by cases f <;> rfl

theorem shrOut_toNat (a : Byte) : (shrOut a).toNat = a.toNat % 2 := by
  rw [shrOut, BitVec.getLsbD, Nat.toNat_testBit, pow_zero, Nat.div_one]

theorem shlOut_toNat (a : Byte) : (shlOut a).toNat = a.toNat / 128 := by
  have ha : a.toNat < 256 := a.isLt
  rw [shlOut, BitVec.getLsbD, Nat.toNat_testBit]
  omega

theorem State.setResultFlag_reg_flag (s : State) (x : Reg) (r : Byte) (f : Bool) :
    (s.setResultFlag x r f).reg VF = flagByte f := by simp

theorem State.setResultFlag_reg_result (s : State) {x : Reg} (r : Byte) (f : Bool) (hx : x ≠ VF) :
    (s.setResultFlag x r f).reg x = r := by simp [hx]

theorem State.setResultFlag_frame (s : State) (x : Reg) (r : Byte) (f : Bool) :
    Frame [x, VF] [] s (s.setResultFlag x r f) :=
  (s.setReg_frame x r).trans ((s.setReg x r).setReg_frame VF (flagByte f))

theorem exec_add (x y : Reg) (s : State) : exec (.add x y) s =
    .next (s.setResultFlag x (addByte (s.reg x) (s.reg y)) (carryOf (s.reg x) (s.reg y))) := rfl

theorem exec_sub (x y : Reg) (s : State) : exec (.sub x y) s =
    .next (s.setResultFlag x (subByte (s.reg x) (s.reg y)) (noBorrowOf (s.reg x) (s.reg y))) := rfl

theorem exec_subn (x y : Reg) (s : State) : exec (.subn x y) s =
    .next (s.setResultFlag x (subByte (s.reg y) (s.reg x)) (noBorrowOf (s.reg y) (s.reg x))) := rfl

theorem exec_shr (x y : Reg) (s : State) : exec (.shr x y) s =
    .next (s.setResultFlag x (shrByte (s.reg x)) (shrOut (s.reg x))) := rfl

theorem exec_shl (x y : Reg) (s : State) : exec (.shl x y) s =
    .next (s.setResultFlag x (shlByte (s.reg x)) (shlOut (s.reg x))) := rfl

/-- Settles O4: one result and its flag, the narrowed sum and the carry. -/
theorem addSumsWithCarry : Obligations.AddSumsWithCarry := by
  intro x y s
  refine ⟨_, exec_add x y s, fun hx => ?sum, ?carry, s.setResultFlag_frame x _ _⟩
  case sum => rw [State.setResultFlag_reg_result _ _ _ hx, addByte_toNat]
  case carry => rw [State.setResultFlag_reg_flag, carryOf, flagByte_decide]

/-- Settles O5: one result and its flag each, the difference narrowed and the not-borrow. -/
theorem subAndSubnSubtract : Obligations.SubAndSubnSubtract := by
  intro x y s
  refine ⟨⟨_, exec_sub x y s, fun hx => ?sub, ?subFlag, s.setResultFlag_frame x _ _⟩,
    ⟨_, exec_subn x y s, fun hx => ?subn, ?subnFlag, s.setResultFlag_frame x _ _⟩⟩
  case sub | subn => rw [State.setResultFlag_reg_result _ _ _ hx, subByte_toNat]
  case subFlag | subnFlag => rw [State.setResultFlag_reg_flag, noBorrowOf, flagByte_decide]

/-- Settles O6: one result and its flag each, both taken from `V[x]` alone. -/
theorem shiftsByOneIgnoreY : Obligations.ShiftsByOneIgnoreY := by
  intro x y s
  refine ⟨⟨_, exec_shr x y s, fun hx => ?shr, ?shrFlag, s.setResultFlag_frame x _ _, fun y' => exec_shr x y' s⟩,
    ⟨_, exec_shl x y s, fun hx => ?shl, ?shlFlag, s.setResultFlag_frame x _ _, fun y' => exec_shl x y' s⟩⟩
  case shr => rw [State.setResultFlag_reg_result _ _ _ hx, shrByte_toNat]
  case shl => rw [State.setResultFlag_reg_result _ _ _ hx, shlByte_toNat]
  case shrFlag => rw [State.setResultFlag_reg_flag, flagByte_toNat, shrOut_toNat]
  case shlFlag => rw [State.setResultFlag_reg_flag, flagByte_toNat, shlOut_toNat]

theorem exec_rnd (x : Reg) (nn : Byte) (s : State) :
    exec (.rnd x nn) s = .next ((s.setDraws (s.draws + 1)).setReg x (Config.randByte s.draws &&& nn)) := rfl

/-- Settles O7: the draw counter moves on, then one register write, of the draw AND `nn`. -/
theorem rndMasksFreshDraw : Obligations.RndMasksFreshDraw := by
  intro x nn s
  refine ⟨_, exec_rnd x nn s, State.setReg_reg_self _ x _, fun k hk => ?masked, rfl,
    (s.setDraws_frame _).trans (State.setReg_frame _ x _)⟩
  case masked => rw [State.setReg_reg_self, BitVec.getLsbD_and, hk, Bool.and_false]

end Sys2Proof.Machine

/-! SUPPORT. The jumps and skips that read registers, JPV0, SER, SNER, and the call stack, CALL and RET (spec
41_control_flow.md sections 2 and 3). -/

namespace Sys2Proof.Machine

theorem exec_ser (x y : Reg) (s : State) :
    exec (.ser x y) s = .next (s.setPc (if s.reg x = s.reg y then s.pc + 2 else s.pc)) := by
  have hskip : exec (.ser x y) s = .next (s.skipIf (s.reg x == s.reg y)) := rfl
  simp only [hskip, State.skipIf_eq, beq_iff_eq]

theorem exec_sner (x y : Reg) (s : State) :
    exec (.sner x y) s = .next (s.setPc (if s.reg x = s.reg y then s.pc else s.pc + 2)) := by
  have hskip : exec (.sner x y) s = .next (s.skipIf (s.reg x != s.reg y)) := rfl
  simp only [hskip, State.skipIf_eq, bne_iff_ne, ne_eq, ite_not]

/-- Settles O14: each skip is one write of `pc`, to the value its comparison selects. -/
theorem registerSkipsCompare : Obligations.RegisterSkipsCompare := fun x y s =>
  ⟨⟨_, exec_ser x y s, rfl, s.setPc_frame _⟩, ⟨_, exec_sner x y s, rfl, s.setPc_frame _⟩,
   ⟨_, exec_ser x x s, if_pos rfl⟩, ⟨_, exec_sner x x s, if_pos rfl⟩⟩

theorem exec_jpv0 (nnn : Addr12) (s : State) :
    exec (.jpv0 nnn) s = .next (s.setPc (zext16OfAddr nnn + zext16OfByte (s.reg 0))) := rfl

/-- Settles O15: one write of `pc`, of a 12-bit and an 8-bit number added in 16 bits, which cannot overflow. -/
theorem jpv0AddsOffset : Obligations.Jpv0AddsOffset := by
  intro nnn s
  have hnnn : nnn.toNat < 4096 := nnn.isLt
  have hv : (s.reg 0).toNat < 256 := (s.reg 0).isLt
  have hsum : (zext16OfAddr nnn + zext16OfByte (s.reg 0)).toNat = nnn.toNat + (s.reg 0).toNat := by
    rw [BitVec.toNat_add, zext16OfAddr_toNat, zext16OfByte_toNat]
    omega
  refine ⟨_, exec_jpv0 nnn s, hsum, ?bound, s.setPc_frame _⟩
  case bound =>
    rw [State.setPc_pc, hsum]
    omega

/-! ### The call stack (10_state.md R28) -/

theorem State.setStk_set_slot (s : State) (k j : Fin 16) (a : Word) :
    (s.setStk (s.stk.set k.val a)).slot j = if j = k then a else s.slot j := by
  simp only [State.slot, State.setStk, Vector.getElem_set, Fin.ext_iff, eq_comm]

/-- The state after a push into slot `k` and a jump. -/
def State.pushed (s : State) (k : Fin 16) (target : Word) : State :=
  ((s.setStk (s.stk.set k.val s.pc)).setSp (s.sp + 1)).setPc target

/-- The state after a pop from slot `k`. -/
def State.popped (s : State) (k : Fin 16) : State := (s.setSp (s.sp - 1)).setPc (s.slot k)

theorem State.pushed_frame (s : State) (k : Fin 16) (target : Word) : Frame [] [.stack, .pc] s (s.pushed k target) :=
  (((s.setStk_frame _).trans (State.setSp_frame _ _)).trans (State.setPc_frame _ target)).mono
    (List.Subset.refl _) (by simp)

theorem State.popped_frame (s : State) (k : Fin 16) : Frame [] [.stack, .pc] s (s.popped k) :=
  (s.setSp_frame _).trans (State.setPc_frame _ _)

/-- All CALL can do. -/
theorem exec_call_cases (nnn : Addr12) (s : State) :
    (∃ k : Fin 16, s.sp.toNat = k.val ∧ exec (.call nnn) s = .next (s.pushed k (zext16OfAddr nnn))) ∨
      (s.sp.toNat = 16 ∧ exec (.call nnn) s = .next (s.setFault (some .stackOverflow))) ∨
      (16 < s.sp.toNat ∧ exec (.call nnn) s = .fault (.noStackSlot s.sp)) := by
  rcases pushAndGo_cases s s.pc (zext16OfAddr nnn) with ⟨h, hpush⟩ | ⟨h, hpush⟩ | h
  · exact .inl ⟨⟨s.sp.toNat, h⟩, rfl, hpush⟩
  · exact .inr (.inl ⟨congrArg BitVec.toNat h, hpush⟩)
  · exact .inr (.inr h)

/-- All RET can do. -/
theorem exec_ret_cases (s : State) :
    (∃ k : Fin 16, s.sp.toNat = k.val + 1 ∧ exec .ret s = .next (s.popped k)) ∨
      (s.sp.toNat = 0 ∧ exec .ret s = .next (s.setFault (some .stackUnderflow))) ∨
      (16 < s.sp.toNat ∧ exec .ret s = .fault (.noStackSlot s.sp)) := by
  rcases popAndGo_cases s with ⟨h, hpop⟩ | ⟨h, hpos, hpop⟩ | h
  · exact .inr (.inl ⟨congrArg BitVec.toNat h, hpop⟩)
  · exact .inl ⟨⟨s.sp.toNat - 1, h⟩, (Nat.sub_add_cancel hpos).symm, hpop⟩
  · exact .inr (.inr h)

theorem State.pushed_sp_toNat {s : State} {k : Fin 16} (hsp : s.sp.toNat = k.val) (target : Word) :
    (s.pushed k target).sp.toNat = k.val + 1 := by
  have hval : (s.pushed k target).sp.toNat = (s.sp.toNat + 1) % 256 := BitVec.toNat_add s.sp 1
  omega

theorem State.popped_sp_toNat {s : State} {k : Fin 16} (hsp : s.sp.toNat = k.val + 1) :
    (s.popped k).sp.toNat = k.val := by
  have hle : 1 ≤ s.sp.toNat := by omega
  have hval : (s.popped k).sp.toNat = s.sp.toNat - 1 := BitVec.toNat_sub_of_le (BitVec.le_def.mpr hle)
  omega

/-- Settles O9: with `SP` below 16 only the push is left. -/
theorem callPushesReturnAddress : Obligations.CallPushesReturnAddress := by
  intro nnn s k hk
  rcases exec_call_cases nnn s with ⟨j, hj, hcall⟩ | ⟨h, -⟩ | ⟨h, -⟩
  case inl =>
    obtain rfl : j = k := Fin.ext (hj.symm.trans hk)
    have hslot (i : Fin 16) : (s.pushed j (zext16OfAddr nnn)).slot i = if i = j then s.pc else s.slot i :=
      s.setStk_set_slot j i s.pc
    refine ⟨_, hcall, by rw [hslot, if_pos rfl], fun i hi => by rw [hslot, if_neg hi], ?_, zext16OfAddr_toNat nnn,
      s.pushed_frame j _⟩
    rw [State.pushed_sp_toNat hk, hk]
  all_goals omega

/-- Settles O10: with `SP` from 1 to 16 only the pop is left. -/
theorem retPopsReturnAddress : Obligations.RetPopsReturnAddress := by
  intro s k hk
  rcases exec_ret_cases s with ⟨j, hj, hret⟩ | ⟨h, -⟩ | ⟨h, -⟩
  case inl =>
    obtain rfl : j = k := Fin.ext (by omega)
    exact ⟨_, hret, rfl, State.popped_sp_toNat hk, fun _ => rfl, s.popped_frame j⟩
  all_goals omega

/-- Settles O11: at each limit one case of CALL and one of RET is left. -/
theorem stackLimitsFault : Obligations.StackLimitsFault := by
  intro nnn s
  have hcall := exec_call_cases nnn s
  have hret := exec_ret_cases s
  refine ⟨fun hfull => ?full, fun hempty => ?empty, fun habove => ⟨?call, ?ret⟩⟩
  case full =>
    rcases hcall with ⟨j, hj, -⟩ | ⟨-, h⟩ | ⟨h, -⟩
    case inr.inl => exact ⟨_, h, rfl, s.setFault_frame _⟩
    all_goals omega
  case empty =>
    rcases hret with ⟨j, hj, -⟩ | ⟨-, h⟩ | ⟨h, -⟩
    case inr.inl => exact ⟨_, h, rfl, s.setFault_frame _⟩
    all_goals omega
  case call =>
    rcases hcall with ⟨j, hj, -⟩ | ⟨h, -⟩ | ⟨-, h⟩
    case inr.inr => exact h
    all_goals omega
  case ret =>
    rcases hret with ⟨j, hj, -⟩ | ⟨h, -⟩ | ⟨-, h⟩
    case inr.inr => exact h
    all_goals omega

theorem next_unique {o : Outcome} {t t' : State} (h : o = .next t) (h' : o = .next t') : t = t' :=
  Host.Outcome.next.inj (h.symm.trans h')

/-- Settles O12: the RET pops the slot that the CALL pushed. -/
theorem callThenRetComesBack : Obligations.CallThenRetComesBack := by
  intro nnn s t u hsp hcall husp huslot
  obtain ⟨t', hcall', hpushed, hothers, hspt, -, -⟩ := callPushesReturnAddress nnn s ⟨s.sp.toNat, hsp⟩ rfl
  obtain rfl : t = t' := next_unique hcall hcall'
  obtain ⟨w, hret, hpc, hspw, hslots, -⟩ := retPopsReturnAddress u ⟨s.sp.toNat, hsp⟩ (by rw [husp, hspt])
  refine ⟨w, hret, by rw [hpc, huslot, hpushed], BitVec.eq_of_toNat_eq hspw, fun k hk => ?_⟩
  rw [hslots, huslot, hothers k (Fin.ne_of_lt hk)]

end Sys2Proof.Machine

/-! SUPPORT. The fetch reads two bytes, the first of them the high one (spec 20_memory.md sections 1 and 2). -/

namespace Sys2Proof.Machine

theorem wordOf_toNat (hi lo : Byte) : (wordOf hi lo).toNat = 256 * hi.toNat + lo.toNat := by
  rw [wordOf, BitVec.toNat_append, ← Nat.shiftLeft_add_eq_or_of_lt lo.isLt, Nat.shiftLeft_eq, Nat.mul_comm]

/-- Settles O38: the value of a word in its two bytes. -/
theorem fetchIsBigEndianAndWraps : Obligations.FetchIsBigEndianAndWraps := fun s =>
  wordOf_toNat (s.byte (s.pc.toNat % 4096)) (s.byte ((s.pc.toNat + 1) % 4096))

end Sys2Proof.Machine

/-! SUPPORT. The instructions with data accesses from `I`, BCD, STM and LDM, and FONT (spec 42_memory_bcd.md section 2,
20_memory.md section 4). -/

namespace Sys2Proof.Machine

theorem exec_font (x : Reg) (s : State) :
    exec (.font x) s = .next (s.setI (0x50#16 + 5#16 * zext16OfByte (s.reg x))) := rfl

/-- Settles O18: one write of `I`, of a number that 16 bits hold. -/
theorem fontPointsAtGlyph : Obligations.FontPointsAtGlyph := by
  intro x s
  have hv : (s.reg x).toNat < 256 := (s.reg x).isLt
  refine ⟨_, exec_font x s, ?glyph, s.setI_frame _⟩
  case glyph =>
    rw [State.setI_i, BitVec.toNat_add, BitVec.toNat_mul, zext16OfByte_toNat, BitVec.toNat_ofNat, BitVec.toNat_ofNat]
    omega

/-! ### The check of the data addresses -/

theorem guardRange_in_range {count : Nat} {s : State} (h : count = 0 ∨ s.i.toNat + count - 1 ≤ 0xFFF) (go : State) :
    guardRange count s go = .next go := by
  rcases guardRange_cases s count go with ⟨-, hgo⟩ | ⟨f, hf, -⟩
  · exact hgo
  · simp [(s.rangeFault_none count).2 h] at hf

/-- The lowest address above 0xFFF is `I` itself, or 0x1000 when `I` is in memory. -/
theorem State.rangeFault_eq {s : State} {count : Nat} {f : CoreFault} (h : s.rangeFault count = some f) :
    f = .memoryOutOfRange (max s.i.toNat 0x1000) := by
  obtain ⟨k, -, rfl, habove, hbelow⟩ := s.rangeFault_some h
  congr 1
  rcases Nat.eq_zero_or_pos k with rfl | hk
  · omega
  · have hlast := hbelow (k - 1) (by omega)
    omega

theorem guardRange_out_of_range {count : Nat} {s : State} (hcount : 0 < count) (h : 0xFFF < s.i.toNat + count - 1)
    (go : State) :
    guardRange count s go = .next (s.setFault (some (.memoryOutOfRange (max s.i.toNat 0x1000)))) := by
  rcases guardRange_cases s count go with ⟨hnone, -⟩ | ⟨f, hf, hfault⟩
  · have hin := (s.rangeFault_none count).1 hnone
    omega
  · rw [hfault, State.rangeFault_eq hf]

/-! ### Bytes stored and read back -/

theorem State.storeBytes_frame (s : State) (a : Nat) (bs : List Byte) : Frame [] [.memory] s (s.storeBytes a bs) :=
  s.setMem_frame _

theorem State.storeBytes_byte_at {s : State} (h : Memory.wf s.mem = true) {a : Nat} {bs : List Byte}
    (ha : a + bs.length ≤ Config.memSize) {k : Nat} (hk : k < bs.length) :
    (s.storeBytes a bs).byte (a + k) = bs[k] := by
  rw [s.storeBytes_byte h ha, if_pos (by omega), Nat.add_sub_cancel_left, List.getD_eq_getElem _ _ hk]

theorem State.storeBytes_keptOutside {s : State} (h : Memory.wf s.mem = true) {a : Nat} {bs : List Byte}
    (ha : a + bs.length ≤ Config.memSize) : MemKeptOutside a bs.length s (s.storeBytes a bs) := fun b hb => by
  rw [s.storeBytes_byte h ha, if_neg (by omega)]

/-! ### BCD, STM and LDM -/

theorem exec_bcd (x : Reg) (s : State) :
    exec (.bcd x) s = guardRange 3 s (s.storeBytes s.i.toNat (bcdDigits (s.reg x))) := rfl

theorem exec_stm (x : Reg) (s : State) :
    exec (.stm x) s = guardRange (x.val + 1) s (s.storeBytes s.i.toNat (s.regsUpTo x)) := rfl

theorem exec_ldm (x : Reg) (s : State) : exec (.ldm x) s = guardRange (x.val + 1) s (s.loadRegs x) := rfl

theorem bcdDigits_length (v : Byte) : (bcdDigits v).length = 3 := rfl

theorem byte_ofNat_toNat {d : Nat} (hd : d < 256) : (BitVec.ofNat 8 d).toNat = d := by
  rw [BitVec.toNat_ofNat, Nat.mod_eq_of_lt hd]

/-- Settles O19: the range check passes, and the three bytes stored are the digits. -/
theorem bcdStoresDigits : Obligations.BcdStoresDigits := by
  intro x s hwf hrange
  have hv : (s.reg x).toNat < 256 := (s.reg x).isLt
  have hend : s.i.toNat + (bcdDigits (s.reg x)).length ≤ Config.memSize := by
    rw [bcdDigits_length, Config.memSize]
    omega
  have hbyte {k : Nat} (hk : k < 3) : (s.storeBytes s.i.toNat (bcdDigits (s.reg x))).byte (s.i.toNat + k) =
      (bcdDigits (s.reg x))[k] := State.storeBytes_byte_at hwf hend hk
  refine ⟨_, (exec_bcd x s).trans (guardRange_in_range (.inr (by omega)) _), ?hundreds, ?tens, ?ones,
    State.storeBytes_keptOutside hwf hend, s.storeBytes_frame _ _⟩
  case hundreds => exact (congrArg BitVec.toNat (hbyte (k := 0) (by decide))).trans (byte_ofNat_toNat (by omega))
  case tens => exact (congrArg BitVec.toNat (hbyte (k := 1) (by decide))).trans (byte_ofNat_toNat (by omega))
  case ones => exact (congrArg BitVec.toNat (hbyte (k := 2) (by decide))).trans (byte_ofNat_toNat (by omega))

theorem State.regsUpTo_length (s : State) (x : Reg) : (s.regsUpTo x).length = x.val + 1 := by
  rw [State.regsUpTo, List.length_take, Vector.length_toList]
  omega

theorem State.regsUpTo_getElem (s : State) {x k : Reg} (h : k.val < (s.regsUpTo x).length) :
    (s.regsUpTo x)[k.val] = s.reg k := by
  simp [State.regsUpTo, State.reg]

/-- Settles O20: the range check passes, and the bytes stored are the registers in order. -/
theorem stmStoresRegisters : Obligations.StmStoresRegisters := by
  intro x s hwf hrange
  have hlen := s.regsUpTo_length x
  have hend : s.i.toNat + (s.regsUpTo x).length ≤ Config.memSize := by
    rw [hlen, Config.memSize]
    omega
  refine ⟨_, (exec_stm x s).trans (guardRange_in_range (.inr (by omega)) _), fun k hk => ?stored, ?kept,
    s.storeBytes_frame _ _⟩
  case stored =>
    have hk' : k.val < (s.regsUpTo x).length := by rw [hlen]; exact Nat.lt_succ_of_le hk
    rw [State.storeBytes_byte_at hwf hend hk', State.regsUpTo_getElem]
  case kept => exact hlen ▸ State.storeBytes_keptOutside hwf hend

theorem mem_regsTo {k x : Reg} : k ∈ regsTo x ↔ k ≤ x := by simp [regsTo]

theorem State.loadRegs_frame (s : State) (x : Reg) : Frame (regsTo x) [] s (s.loadRegs x) := by
  have hreg : ∀ r, r ∉ regsTo x → (s.loadRegs x).reg r = s.reg r := fun r hr => by
    rw [State.loadRegs_reg, if_neg (fun hle => hr (mem_regsTo.2 hle))]
  obtain ⟨w, hw⟩ := s.loadRegs_others x
  rw [hw] at hreg ⊢
  exact Frame.setV hreg []

/-- Settles O21: the range check passes, and what is left is the load. -/
theorem ldmLoadsRegisters : Obligations.LdmLoadsRegisters := by
  intro x s hrange
  refine ⟨_, (exec_ldm x s).trans (guardRange_in_range (.inr (by omega)) _), fun k hk => ?loaded, s.loadRegs_frame x⟩
  case loaded => rw [State.loadRegs_reg, if_pos hk, State.indexAddr]

/-- Settles O22: the bytes LDM loads are those STM stored. -/
theorem stmThenLdmRestores : Obligations.StmThenLdmRestores := by
  intro x s t u hwf hrange hstm hi hbytes
  obtain ⟨t', hstm', hstored, -, -⟩ := stmStoresRegisters x s hwf hrange
  obtain rfl : t = t' := next_unique hstm hstm'
  obtain ⟨w, hldm, hloaded, -⟩ := ldmLoadsRegisters x u (by rwa [hi])
  exact ⟨w, hldm, fun k hk => by rw [hloaded k hk, hi, hbytes, hstored k hk]⟩

/-- Settles O24: the fetch reads the first two bytes stored. -/
theorem storeSeenByNextFetch : Obligations.StoreSeenByNextFetch := by
  intro x s t hwf hx hrange hstm
  obtain ⟨t', hstm', hstored, -, -⟩ := stmStoresRegisters x s hwf hrange
  obtain rfl : t = t' := next_unique hstm hstm'
  have hfirst : t.byte s.i.toNat = s.reg 0 := hstored 0 (Fin.zero_le x)
  have hsecond : t.byte (s.i.toNat + 1) = s.reg 1 := hstored 1 hx
  rw [fetchIsBigEndianAndWraps, State.setPc_pc, State.setPc_byte, State.setPc_byte,
    Nat.mod_eq_of_lt (by omega : s.i.toNat < 4096), Nat.mod_eq_of_lt (by omega : s.i.toNat + 1 < 4096), hfirst, hsecond]

theorem exec_drw (x y : Reg) (n : Nat) (s : State) : exec (.drw x y n) s = guardRange n s
    ((s.setFb (s.blit (s.reg x) (s.reg y) n).1).setReg VF (flagByte (s.blit (s.reg x) (s.reg y) n).2)) := rfl

/-- Settles O23: in each of the four the range check is the whole of what happens. -/
theorem outOfRangeFaultsBeforeWriting : Obligations.OutOfRangeFaultsBeforeWriting := by
  intro x y n s faults
  have hfaults {i : Instr} {count : Nat} {go : State} (hexec : exec i s = guardRange count s go) (hcount : 0 < count)
      (habove : 0xFFF < s.i.toNat + count - 1) : faults i :=
    ⟨_, hexec.trans (guardRange_out_of_range hcount habove go), rfl, s.setFault_frame _⟩
  exact ⟨hfaults (exec_drw x y n s), hfaults (exec_bcd x s) (by decide), hfaults (exec_stm x s) (by omega),
    hfaults (exec_ldm x s) (by omega)⟩

end Sys2Proof.Machine

/-! SUPPORT. DRW (spec 43_display.md R162 to R166). -/

namespace Sys2Proof.Machine

/-- The blit's own names for a covered pixel. -/
theorem spriteCovers_iff (s : State) (vx vy : Byte) (n : Nat) (xx : Col) (yy : Row) :
    spriteCovers s vx vy n xx yy ↔ ∃ r c, r < n ∧ c < 8 ∧ xx = spriteCol vx c ∧ yy = spriteRow vy r ∧
      spriteBit (s.byte (s.indexAddr r)) c = true := by
  simp only [Fin.ext_iff]
  rfl

theorem State.blit_pixel_ne_iff (s : State) (vx vy : Byte) {n : Nat} (hn : n ≤ 32) (xx : Col) (yy : Row) :
    Framebuffer.pixel (s.blit vx vy n).1 xx yy ≠ s.pixel xx yy ↔ spriteCovers s vx vy n xx yy := by
  rw [spriteCovers_iff, (s.blit_spec vx vy n hn).1]

theorem State.blit_hit_iff (s : State) (vx vy : Byte) {n : Nat} (hn : n ≤ 32) :
    (s.blit vx vy n).2 = true ↔ ∃ xx yy, spriteCovers s vx vy n xx yy ∧ s.pixel xx yy = true := by
  simp only [(s.blit_spec vx vy n hn).2, spriteCovers_iff]
  constructor
  · rintro ⟨r, c, hr, hc, hbit, hlit⟩
    exact ⟨_, _, ⟨r, c, hr, hc, rfl, rfl, hbit⟩, hlit⟩
  · rintro ⟨_, _, ⟨r, c, hr, hc, rfl, rfl, hbit⟩, hlit⟩
    exact ⟨r, c, hr, hc, hbit, hlit⟩

theorem State.drawn_frame (s : State) (fb : Framebuffer) (b : Byte) :
    Frame [VF] [.screen] s ((s.setFb fb).setReg VF b) :=
  (s.setFb_frame fb).trans (State.setReg_frame _ VF b)

/-- Settles O26: the range check passes, the blit toggles the covered pixels, and `VF` is its collision flag. -/
theorem drwXorsSprite : Obligations.DrwXorsSprite := by
  intro x y n s hn hmem
  have hhit := s.blit_hit_iff (s.reg x) (s.reg y) (by omega : n ≤ 32)
  refine ⟨_, (exec_drw x y n s).trans (guardRange_in_range hmem _),
    s.blit_pixel_ne_iff (s.reg x) (s.reg y) (by omega), fun hlit => ?hit, fun hnone => ?miss, s.drawn_frame _ _⟩
  case hit => rw [State.setReg_reg_self, hhit.2 hlit, flagByte_true]
  case miss => rw [State.setReg_reg_self, Bool.eq_false_iff.2 (fun h => hnone (hhit.1 h)), flagByte_false]

theorem spriteCovers_congr {s t : State} (hi : t.i = s.i) (hbyte : ∀ a, t.byte a = s.byte a) (vx vy : Byte) (n : Nat)
    (xx : Col) (yy : Row) : spriteCovers t vx vy n xx yy ↔ spriteCovers s vx vy n xx yy := by
  simp only [spriteCovers, hi, hbyte]

/-- Settles O27: the second draw covers the same pixels as the first, and toggles them back. -/
theorem drwTwiceRestoresScreen : Obligations.DrwTwiceRestoresScreen := by
  intro x y n s t hn hx hy hmem hdraw
  obtain ⟨t', hdraw', htoggled, -, -, hreg, hpart⟩ := drwXorsSprite x y n s hn hmem
  obtain rfl : t = t' := next_unique hdraw hdraw'
  have hi : t.i = s.i := hpart .index (by decide)
  have hbyte : ∀ a, t.byte a = s.byte a := hpart .memory (by decide)
  obtain ⟨u, hagain, hback, -⟩ := drwXorsSprite x y n t hn (by rwa [spriteInMemory, hi])
  refine ⟨u, hagain, fun xx yy => ?_⟩
  have hsame : u.pixel xx yy ≠ t.pixel xx yy ↔ t.pixel xx yy ≠ s.pixel xx yy := by
    rw [hback, spriteCovers_congr hi hbyte, hreg x (by simpa using hx), hreg y (by simpa using hy), htoggled]
  by_cases hkept : t.pixel xx yy = s.pixel xx yy
  · rw [← hkept]
    exact not_ne_iff.1 (fun hne => hsame.1 hne hkept)
  · rw [Bool.eq_not_of_ne (hsame.2 hkept), Bool.eq_not_of_ne hkept, Bool.not_not]

end Sys2Proof.Machine

/-! SUPPORT. The keypad instructions, SKP, SKNP and WAITK (spec 44_input_timers.md sections 1 and 2). -/

namespace Sys2Proof.Machine

/-- All SKP can do. -/
theorem exec_skp_cases (x : Reg) (s : State) :
    (∃ k : Key, (s.reg x).toNat = k.val ∧
        exec (.skp x) s = .next (s.setPc (if s.pressed k = true then s.pc + 2 else s.pc))) ∨
      (15 < (s.reg x).toNat ∧ exec (.skp x) s = .next (s.setFault (some (.badKeyIndex (s.reg x))))) := by
  rcases keySkip_cases s x (fun down => down) with ⟨h, hskip⟩ | h
  · exact .inl ⟨⟨_, h⟩, rfl, hskip⟩
  · exact .inr h

/-- All SKNP can do. -/
theorem exec_sknp_cases (x : Reg) (s : State) :
    (∃ k : Key, (s.reg x).toNat = k.val ∧
        exec (.sknp x) s = .next (s.setPc (if s.pressed k = true then s.pc else s.pc + 2))) ∨
      (15 < (s.reg x).toNat ∧ exec (.sknp x) s = .next (s.setFault (some (.badKeyIndex (s.reg x))))) := by
  rcases keySkip_cases s x (fun down => !down) with ⟨h, hskip⟩ | h
  · have hexec : exec (.sknp x) s = keySkip x (fun down => !down) s := rfl
    refine .inl ⟨⟨_, h⟩, rfl, ?_⟩
    simp only [hexec, hskip, Bool.not_eq_true', ← Bool.not_eq_true, ite_not]
  · exact .inr h

/-- Settles O28: with a key's number in `V[x]` the test is all that is left, one write of `pc`. -/
theorem keySkipsTestTheKey : Obligations.KeySkipsTestTheKey := by
  intro x k s hk
  constructor
  · rcases exec_skp_cases x s with ⟨j, hj, hskip⟩ | ⟨h, -⟩
    · obtain rfl : j = k := Fin.ext (hj.symm.trans hk)
      exact ⟨_, hskip, rfl, s.setPc_frame _⟩
    · omega
  · rcases exec_sknp_cases x s with ⟨j, hj, hskip⟩ | ⟨h, -⟩
    · obtain rfl : j = k := Fin.ext (hj.symm.trans hk)
      exact ⟨_, hskip, rfl, s.setPc_frame _⟩
    · omega

/-- Settles O29: above 15 the fault is all that is left. -/
theorem badKeyIndexFaults : Obligations.BadKeyIndexFaults := by
  intro x s hv
  constructor
  · rcases exec_skp_cases x s with ⟨j, hj, -⟩ | ⟨-, hfault⟩
    · omega
    · exact ⟨_, hfault, rfl, s.setFault_frame _⟩
  · rcases exec_sknp_cases x s with ⟨j, hj, -⟩ | ⟨-, hfault⟩
    · omega
    · exact ⟨_, hfault, rfl, s.setFault_frame _⟩

theorem exec_waitk_of_pressed {s : State} {k : Key} (h : s.lowestPressed = some k) (x : Reg) :
    exec (.waitk x) s = .next ((s.setReg x (BitVec.ofNat 8 k.val)).setKw .idle) := by
  simp only [exec, execWaitk, h]

theorem exec_waitk_of_none {s : State} (h : s.lowestPressed = none) (x : Reg) :
    exec (.waitk x) s = .next ((s.setKw .waitingForKey).setPc (s.pc - 2)) := by
  simp only [exec, execWaitk, h]
  rfl

/-- Settles O30: a least pressed key is `lowestPressed`, and with no key pressed there is none. -/
theorem waitkTakesLowestKeyOrWaits : Obligations.WaitkTakesLowestKeyOrWaits := by
  intro x s
  refine ⟨fun k hk hlow => ?pressed, fun hnone => ?none⟩
  case pressed =>
    refine ⟨_, exec_waitk_of_pressed (s.lowestPressed_some.2 ⟨hk, hlow⟩) x, ?_, rfl,
      (s.setReg_frame x _).trans (State.setKw_frame _ _)⟩
    rw [State.setKw_reg, State.setReg_reg_self, byte_ofNat_toNat (by omega)]
  case none =>
    exact ⟨_, exec_waitk_of_none (s.lowestPressed_none.2 hnone) x, rfl, rfl,
      (s.setKw_frame _).trans (State.setPc_frame _ _)⟩

end Sys2Proof.Machine

/-! SUPPORT. What one step can do: nothing when halted, the fault of an unknown word, or the decoded instruction (spec
70_reset_and_hazards.md section 3); and runs of steps that come to rest. -/

namespace Sys2Proof.Machine

theorem step_of_halted {s : State} {f : CoreFault} (h : s.fault = some f) : step s = .next s := by
  simp only [step, h]
  rfl

theorem step_of_unknown {s : State} {w : Word} (hf : s.fault = none) (hw : decode s.fetchWord = .unknown w) :
    step s = .next ((s.setPc (s.pc + 2)).setFault (some (.unknownOpcode w))) := by
  simp only [step, hf, hw]
  rfl

/-- Settles O39: the two matches of `step` take the arm that runs the instruction. -/
theorem stepRunsDecodedInstruction : Obligations.StepRunsDecodedInstruction := by
  intro s i hf hi
  simp only [step, hf, hi]
  rfl

/-- Settles O40: a word that is no instruction is unknown as itself. -/
theorem unknownWordFaults : Obligations.UnknownWordFaults := by
  intro s hf hnone
  cases hw : decode s.fetchWord with
  | instr i => exact absurd hw (hnone i)
  | unknown w =>
    obtain rfl := decode_unknown hw
    exact ⟨_, step_of_unknown hf hw, rfl, rfl, (s.setPc_frame _).trans (State.setFault_frame _ _)⟩

/-! ### Runs that come to rest -/

theorem run_succ_of_step {s t : State} (h : step s = .next t) (n : Nat) : core.run (n + 1) s = core.run n t := by
  have hcore : core.step s = .next t := h
  simp only [Host.Core.run, hcore]

theorem run_of_step_self {s : State} (h : step s = .next s) (n : Nat) : core.run n s = .next s := by
  induction n with
  | zero => rfl
  | succ n ih => rw [run_succ_of_step h, ih]

theorem run_of_step_then_self {s t : State} (h : step s = .next t) (ht : step t = .next t) (n : Nat) :
    core.run (n + 1) s = .next t := by
  rw [run_succ_of_step h, run_of_step_self ht]

/-- Settles O41: a halted step is a step to the same state. -/
theorem haltedCoreStaysAsItIs : Obligations.HaltedCoreStaysAsItIs := by
  intro s f n hf
  have hstep := step_of_halted hf
  refine ⟨run_of_step_self hstep n, ?_⟩
  simp only [hostCall, hstep, State.stepReply, hf]

theorem step_of_waiting {s : State} {x : Reg} (hf : s.fault = none) (hi : decode s.fetchWord = .instr (.waitk x))
    (hkeys : ∀ k, s.pressed k = false) : step s = .next (s.setKw .waitingForKey) := by
  have hnone : (s.setPc (s.pc + 2)).lowestPressed = none := s.lowestPressed_none.2 hkeys
  have hback : s.pc + 2 - 2 = s.pc := by bv_omega
  rw [stepRunsDecodedInstruction s _ hf hi, exec_waitk_of_none hnone, State.setPc_pc, hback]
  rfl

/-- Settles O31: the waiting step sets the key-wait state alone, so the second one changes nothing. -/
theorem waitkStallsUntilKey : Obligations.WaitkStallsUntilKey := by
  intro x s n hf hi hkeys
  have hstep := step_of_waiting hf hi hkeys
  have hagain : step (s.setKw .waitingForKey) = .next (s.setKw .waitingForKey) :=
    step_of_waiting (s := s.setKw .waitingForKey) hf hi hkeys
  exact ⟨_, run_of_step_then_self hstep hagain n, rfl, s.setKw_frame _⟩

/-- The fetch depends on `pc` modulo 4096 (20_memory.md R55). -/
theorem State.setPc_fetchWord {s : State} {a : Word} (h : a.toNat % 4096 = s.pc.toNat % 4096) :
    (s.setPc a).fetchWord = s.fetchWord := by
  have hnext : (a.toNat + 1) % 4096 = (s.pc.toNat + 1) % 4096 := by omega
  simp only [State.fetchWord, State.fetchByte, State.setPc_pc, State.setPc_byte, Config.memSize, h, hnext]

theorem State.finished_iff (s : State) :
    s.finished = true ↔ s.fault = none ∧ decode s.fetchWord = .instr (.jp (BitVec.ofNat 12 s.pc.toNat)) := by
  simp only [State.finished, Bool.and_eq_true, beq_iff_eq]

/-- Where a JP to its own address goes: `pc` modulo 4096. -/
def State.selfTarget (s : State) : Word := zext16OfAddr (BitVec.ofNat 12 s.pc.toNat)

theorem State.selfTarget_toNat (s : State) : s.selfTarget.toNat = s.pc.toNat % 4096 := by
  rw [State.selfTarget, zext16OfAddr_toNat, BitVec.toNat_ofNat]

/-- At its target the address field is the same. -/
theorem State.selfTarget_addr (s : State) : BitVec.ofNat 12 s.selfTarget.toNat = BitVec.ofNat 12 s.pc.toNat := by
  apply BitVec.eq_of_toNat_eq
  rw [BitVec.toNat_ofNat, BitVec.toNat_ofNat, State.selfTarget_toNat, Nat.mod_mod]

theorem State.selfTarget_setPc (s : State) : (s.setPc s.selfTarget).selfTarget = s.selfTarget :=
  congrArg zext16OfAddr s.selfTarget_addr

theorem State.finished_setPc_selfTarget {s : State} (h : s.finished = true) :
    (s.setPc s.selfTarget).finished = true := by
  rw [State.finished_iff] at h ⊢
  rwa [State.setPc_fetchWord (by rw [State.selfTarget_toNat, Nat.mod_mod]), State.setPc_pc, State.selfTarget_addr]

theorem step_of_finished {s : State} (h : s.finished = true) : step s = .next (s.setPc s.selfTarget) := by
  obtain ⟨hf, hi⟩ := s.finished_iff.1 h
  rw [stepRunsDecodedInstruction s _ hf hi, exec_jp]
  rfl

/-- Settles O53: the jump reduces `pc` modulo 4096, which leaves the fetch as it was; so it jumps there again, to the
`pc` it then has. -/
theorem finishedRunIsFixed : Obligations.FinishedRunIsFixed := by
  intro s n hfin
  have hself : step (s.setPc s.selfTarget) = .next (s.setPc s.selfTarget) := by
    rw [step_of_finished (State.finished_setPc_selfTarget hfin), State.selfTarget_setPc]
    rfl
  exact ⟨_, run_of_step_then_self (step_of_finished hfin) hself n, s.selfTarget_toNat, s.setPc_frame _⟩

/-! ### The placed instruction -/

theorem wordOf_bytes (w : Word) : wordOf (w.extractLsb' 8 8) (w.extractLsb' 0 8) = w := by
  have hw : w.toNat < 65536 := w.isLt
  apply BitVec.eq_of_toNat_eq
  rw [wordOf_toNat, BitVec.extractLsb'_toNat, BitVec.extractLsb'_toNat, Nat.shiftRight_eq_div_pow, Nat.shiftRight_zero]
  omega

theorem decode_of_decodeTableWord {w : Nat} {i : Instr} (h : decodeTableWord 16 w = some i) :
    decode (BitVec.ofNat 16 (w % 2 ^ 16)) = .instr i := by
  simp only [decodeTableWord, decodeBytes, wordOf_bytes] at h
  split at h
  case h_1 j hj => rw [hj, Option.some.inj h]
  case h_2 => cases h

/-- Settles O54: the placed word is the one fetched, in a core that is not halted. -/
theorem placedWordRunsNext : Obligations.PlacedWordRunsNext := by
  intro s w i hwf hi
  have hfetch : (s.withFetchWord 16 w).fetchWord = BitVec.ofNat 16 (w % 2 ^ 16) := s.placeWord_fetch hwf _
  have hdecode : decode (s.withFetchWord 16 w).fetchWord = .instr i := by rw [hfetch, decode_of_decodeTableWord hi]
  exact stepRunsDecodedInstruction _ i rfl hdecode

end Sys2Proof.Machine

/-! SUPPORT. Everything an instruction can do, said once (`exec_result`): it completes, with its frame, its stores, its
flag and its `pc` as the tables say; or it latches a fault and does nothing else; or, with `SP` above 16 only, the model
stops. The statements about all instructions and about the step follow from it. -/

namespace Sys2Proof.Machine

/-- Memory in `t` is that of `s` with the bytes that `i` stores, all of them at addresses that exist. -/
def StoresItsBytes (i : Instr) (s t : State) : Prop :=
  ∃ bs : List Byte, bs.length = (storedBytes i s).2 ∧ (storedBytes i s).1 + bs.length ≤ Config.memSize ∧
    t.mem = Memory.setBytes s.mem (storedBytes i s).1 bs

/-- `t` is the state in which `i` completes when its handler sees `s`. -/
structure Completes (i : Instr) (s t : State) : Prop where
  frame : Frame (writtenRegs i) (writtenParts i) s t
  fault : t.fault = s.fault
  sp : s.sp.toNat ≤ 16 → t.sp.toNat ≤ 16
  stores : StoresItsBytes i s t
  flag : writesFlag i = true → t.reg VF = 0 ∨ t.reg VF = 1
  pc : ∀ r : State, s = r.setPc (r.pc + 2) → t.pc = pcAfter i r

/-- The three results `exec i s` can have. -/
inductive ExecResult (i : Instr) (s : State) : Outcome → Prop where
  | completes {t : State} (h : Completes i s t) : ExecResult i s (.next t)
  | faults {f : CoreFault} (hlegal : f.legal = true) (hpart : .fault ∈ writtenParts i) :
      ExecResult i s (.next (s.setFault (some f)))
  | stops (h : 16 < s.sp.toNat) : ExecResult i s (.fault (.noStackSlot s.sp))

theorem StoresItsBytes.of_none {i : Instr} {s t : State} (hstored : storedBytes i s = (0, 0)) (hmem : t.mem = s.mem) :
    StoresItsBytes i s t := by
  simp only [StoresItsBytes, hstored]
  exact ⟨[], rfl, by decide, hmem⟩

/-- An instruction without flag and stores that leaves `FAULT`, memory and the stack as they are: only its frame and its
`pc` are its own. -/
theorem Completes.of_simple {i : Instr} {s t : State} (hframe : Frame (writtenRegs i) (writtenParts i) s t)
    (hpc : ∀ r : State, s = r.setPc (r.pc + 2) → t.pc = pcAfter i r) (hstored : storedBytes i s = (0, 0) := by rfl)
    (hflag : writesFlag i = false := by rfl) (hfault : t.fault = s.fault := by rfl) (hsp : t.sp = s.sp := by rfl)
    (hmem : t.mem = s.mem := by rfl) : Completes i s t where
  frame := hframe
  fault := hfault
  sp h := hsp ▸ h
  stores := .of_none hstored hmem
  flag h := by simp [hflag] at h
  pc := hpc

/-- An instruction that writes a result and its flag. -/
theorem Completes.of_resultFlag {i : Instr} {s : State} {x : Reg} (r : Byte) (f : Bool)
    (hregs : writtenRegs i = [x, VF] := by rfl) (hparts : writtenParts i = [] := by rfl)
    (hstored : storedBytes i s = (0, 0) := by rfl) (hpc : ∀ r, pcAfter i r = r.pc + 2 := by intro r; rfl) :
    Completes i s (s.setResultFlag x r f) where
  frame := by rw [hregs, hparts]; exact s.setResultFlag_frame x r f
  fault := rfl
  sp h := h
  stores := .of_none hstored rfl
  flag _ := by rw [State.setResultFlag_reg_flag]; exact flagByte_zero_or_one f
  pc := by rintro r rfl; rw [hpc]; rfl

/-- An instruction that skips on a condition. -/
theorem Completes.of_skip {i : Instr} {s : State} (c : Bool)
    (hpc : ∀ r : State, s = r.setPc (r.pc + 2) → pcAfter i r = if c then r.pc + 4 else r.pc + 2)
    (hpart : .pc ∈ writtenParts i := by simp [writtenParts]) (hstored : storedBytes i s = (0, 0) := by rfl)
    (hflag : writesFlag i = false := by rfl) : Completes i s (s.skipIf c) := by
  rw [State.skipIf_eq]
  refine .of_simple ((s.setPc_frame _).mono (List.nil_subset _) (by simpa using hpart)) ?_ hstored hflag
  rintro r rfl
  rw [hpc r rfl, State.setPc_pc, State.setPc_pc, BitVec.add_assoc]
  rfl

theorem memoryOutOfRange_legal (s : State) : (CoreFault.memoryOutOfRange (max s.i.toNat 0x1000)).legal = true := by
  have hi : s.i.toNat < 65536 := s.i.isLt
  simp only [CoreFault.legal, Bool.and_eq_true, decide_eq_true_eq]
  omega

/-- An instruction with data accesses, from its completion when they are in range. -/
theorem ExecResult.of_guardRange {i : Instr} {s go : State} {count : Nat}
    (hgo : count = 0 ∨ s.i.toNat + count - 1 ≤ 0xFFF → Completes i s go) (hpart : .fault ∈ writtenParts i) :
    ExecResult i s (guardRange count s go) := by
  rcases guardRange_cases s count go with ⟨hin, h⟩ | ⟨f, hf, h⟩
  · rw [h]
    exact .completes (hgo ((s.rangeFault_none count).1 hin))
  · rw [h, State.rangeFault_eq hf]
    exact .faults (memoryOutOfRange_legal s) hpart

theorem Completes.bcd {x : Reg} {s : State} (h : s.i.toNat + 2 ≤ 0xFFF) :
    Completes (.bcd x) s (s.storeBytes s.i.toNat (bcdDigits (s.reg x))) where
  frame := (s.storeBytes_frame _ _).mono (List.Subset.refl _) (by simp [writtenParts])
  fault := rfl
  sp h := h
  stores := ⟨_, rfl, by simp only [storedBytes, State.indexAddr, bcdDigits_length, Config.memSize]; omega, rfl⟩
  flag h := by cases h
  pc := by rintro r rfl; rfl

theorem Completes.stm {x : Reg} {s : State} (h : s.i.toNat + x.val ≤ 0xFFF) :
    Completes (.stm x) s (s.storeBytes s.i.toNat (s.regsUpTo x)) where
  frame := (s.storeBytes_frame _ _).mono (List.Subset.refl _) (by simp [writtenParts])
  fault := rfl
  sp h := h
  stores := ⟨_, s.regsUpTo_length x,
    by simp only [storedBytes, State.indexAddr, State.regsUpTo_length, Config.memSize]; omega, rfl⟩
  flag h := by cases h
  pc := by rintro r rfl; rfl

theorem Completes.ldm (x : Reg) (s : State) : Completes (.ldm x) s (s.loadRegs x) := by
  have hframe : Frame (writtenRegs (.ldm x)) (writtenParts (.ldm x)) s (s.loadRegs x) :=
    (s.loadRegs_frame x).mono (List.Subset.refl _) (List.nil_subset _)
  obtain ⟨w, hw⟩ := s.loadRegs_others x
  rw [hw] at hframe ⊢
  exact .of_simple hframe (by rintro r rfl; rfl)

theorem Completes.drw (x y : Reg) (n : Nat) (s : State) : Completes (.drw x y n) s
    ((s.setFb (s.blit (s.reg x) (s.reg y) n).1).setReg VF (flagByte (s.blit (s.reg x) (s.reg y) n).2)) where
  frame := (s.drawn_frame _ _).mono (List.Subset.refl _) (by simp [writtenParts])
  fault := rfl
  sp h := h
  stores := .of_none rfl rfl
  flag _ := by rw [State.setReg_reg_self]; exact flagByte_zero_or_one _
  pc := by rintro r rfl; rfl

theorem Completes.call {s : State} {k : Fin 16} (hk : s.sp.toNat = k.val) (nnn : Addr12) :
    Completes (.call nnn) s (s.pushed k (zext16OfAddr nnn)) where
  frame := (s.pushed_frame k _).mono (List.Subset.refl _) (by simp [writtenParts])
  fault := rfl
  sp _ := by rw [State.pushed_sp_toNat hk]; omega
  stores := .of_none rfl rfl
  flag h := by cases h
  pc _ _ := rfl

theorem Completes.ret {s : State} {k : Fin 16} (hk : s.sp.toNat = k.val + 1) : Completes .ret s (s.popped k) where
  frame := (s.popped_frame k).mono (List.Subset.refl _) (by simp [writtenParts])
  fault := rfl
  sp _ := by rw [State.popped_sp_toNat hk]; omega
  stores := .of_none rfl rfl
  flag h := by cases h
  pc := by
    rintro r rfl
    have hk' : r.sp.toNat - 1 = k.val := by simp only [State.setPc_sp] at hk; omega
    simp only [pcAfter, hk', k.isLt, dite_true]
    rfl

/-- An instruction that tests a key. -/
theorem ExecResult.of_keySkip {i : Instr} {s : State} (x : Reg) (test : Bool → Bool)
    (hpc : ∀ r : State, pcAfter i r = if (if h : (r.reg x).toNat < 16 then test (r.pressed ⟨(r.reg x).toNat, h⟩)
      else false) then r.pc + 4 else r.pc + 2 := by intro r; rfl)
    (hparts : writtenParts i = [.pc, .fault] := by rfl) (hstored : storedBytes i s = (0, 0) := by rfl)
    (hflag : writesFlag i = false := by rfl) : ExecResult i s (keySkip x test s) := by
  rcases keySkip_cases s x test with ⟨h, hskip⟩ | ⟨h, hfault⟩
  · rw [hskip, ← State.skipIf_eq]
    refine .completes (.of_skip _ ?_ (by simp [hparts]) hstored hflag)
    rintro r rfl
    have hkey : (r.reg x).toNat < 16 := h
    rw [hpc, dif_pos hkey]
    rfl
  · rw [hfault]
    exact .faults (decide_eq_true h) (by simp [hparts])

theorem ExecResult.waitk (x : Reg) (s : State) : ExecResult (.waitk x) s (exec (.waitk x) s) := by
  cases hk : s.lowestPressed with
  | none =>
    rw [exec_waitk_of_none hk]
    refine .completes (.of_simple ((s.setKw_frame _).trans (State.setPc_frame _ _)|>.mono (List.nil_subset _)
      (List.Subset.refl _)) ?_)
    rintro r rfl
    have hup : ∀ k, r.pressed k = false := (State.lowestPressed_none _).1 hk
    have hnone : ¬ ∃ k, r.pressed k = true := by simp [hup]
    have hback : r.pc + 2 - 2 = r.pc := by bv_omega
    simp only [pcAfter, if_neg hnone, State.setPc_pc, hback]
  | some k =>
    rw [exec_waitk_of_pressed hk]
    refine .completes (.of_simple ((s.setReg_frame x _).trans (State.setKw_frame _ _)|>.mono (List.Subset.refl _)
      (by simp [writtenParts])) ?_)
    rintro r rfl
    have hsome : ∃ k, r.pressed k = true := ⟨k, ((State.lowestPressed_some _).1 hk).1⟩
    simp only [pcAfter, if_pos hsome]
    rfl

theorem ExecResult.call (nnn : Addr12) (s : State) : ExecResult (.call nnn) s (exec (.call nnn) s) := by
  rcases exec_call_cases nnn s with ⟨k, hk, h⟩ | ⟨-, h⟩ | ⟨habove, h⟩ <;> rw [h]
  · exact .completes (.call hk nnn)
  · exact .faults rfl (by simp [writtenParts])
  · exact .stops habove

theorem ExecResult.ret (s : State) : ExecResult .ret s (exec .ret s) := by
  rcases exec_ret_cases s with ⟨k, hk, h⟩ | ⟨-, h⟩ | ⟨habove, h⟩ <;> rw [h]
  · exact .completes (.ret hk)
  · exact .faults rfl (by simp [writtenParts])
  · exact .stops habove

/-- Every instruction has one of the three results, by its arm of the dispatch. -/
theorem exec_result (i : Instr) (s : State) : ExecResult i s (exec i s) := by
  cases i with
  | ldi x | addi x | mov x | or x | and x | xor x | lddt x =>
    exact .completes (.of_simple (s.setReg_frame x _) (by rintro r rfl; rfl))
  | rnd x =>
    exact .completes (.of_simple ((s.setDraws_frame _).trans (State.setReg_frame _ x _)) (by rintro r rfl; rfl))
  | add | sub | subn | shr | shl => exact .completes (.of_resultFlag _ _)
  | cls => exact .completes (.of_simple (s.setFb_frame _) (by rintro r rfl; rfl))
  | stdt => exact .completes (.of_simple (s.setDt_frame _) (by rintro r rfl; rfl))
  | stst => exact .completes (.of_simple (s.setSt_frame _) (by rintro r rfl; rfl))
  | ldx | addx | font => exact .completes (.of_simple (s.setI_frame _) (by rintro r rfl; rfl))
  | jp | jpv0 => exact .completes (.of_simple (s.setPc_frame _) (by rintro r rfl; rfl))
  | sei | snei | ser | sner => exact .completes (.of_skip _ (by rintro r rfl; rfl))
  | skp x => exact .of_keySkip x (fun down => down)
  | sknp x => exact .of_keySkip x (fun down => !down)
  | call nnn => exact .call nnn s
  | ret => exact .ret s
  | waitk x => exact .waitk x s
  | drw x y n => exact .of_guardRange (fun _ => .drw x y n s) (by simp [writtenParts])
  | bcd x => exact .of_guardRange (fun h => .bcd (by omega)) (by simp [writtenParts])
  | stm x => exact .of_guardRange (fun h => .stm (by omega)) (by simp [writtenParts])
  | ldm x => exact .of_guardRange (fun _ => .ldm x s) (by simp [writtenParts])

end Sys2Proof.Machine

/-! SUPPORT. The statements about every instruction and every step, from the three results of `exec_result`. -/

namespace Sys2Proof.Machine

/-- All a step can do. -/
inductive StepResult (s : State) : Outcome → Prop where
  | halted {f : CoreFault} (h : s.fault = some f) : StepResult s (.next s)
  | unknown (hf : s.fault = none) (hw : decode s.fetchWord = .unknown s.fetchWord) :
      StepResult s (.next ((s.setPc (s.pc + 2)).setFault (some (.unknownOpcode s.fetchWord))))
  | instr {i : Instr} {o : Outcome} (hf : s.fault = none) (hi : decode s.fetchWord = .instr i)
      (ho : ExecResult i (s.setPc (s.pc + 2)) o) : StepResult s o

theorem step_result (s : State) : StepResult s (step s) := by
  cases hf : s.fault with
  | some f =>
    rw [step_of_halted hf]
    exact .halted hf
  | none =>
    cases hd : decode s.fetchWord with
    | unknown w =>
      obtain rfl := decode_unknown hd
      rw [step_of_unknown hf hd]
      exact .unknown hf hd
    | instr i =>
      rw [stepRunsDecodedInstruction s i hf hd]
      exact .instr hf hd (exec_result i _)

/-! ### What an instruction leaves alone -/

theorem StoresItsBytes.memKeptOutside {i : Instr} {s t : State} (h : StoresItsBytes i s t)
    (hwf : Memory.wf s.mem = true) :
    MemKeptOutside (storedBytes i s).1 (storedBytes i s).2 s t := by
  obtain ⟨bs, hlen, hend, hmem⟩ := h
  have hkept := State.storeBytes_keptOutside hwf hend
  rw [hlen] at hkept
  intro b hb
  rw [← hkept b hb, State.byte, State.byte, hmem, State.storeBytes_eq, State.setMem_mem]

/-- Settles O45: a completed instruction has its frame and its stores; a fault changes `FAULT` alone. -/
theorem instructionsWriteOnlyTheirTargets : Obligations.InstructionsWriteOnlyTheirTargets := by
  intro i s t h
  have hresult := exec_result i s
  rw [h] at hresult
  cases hresult with
  | completes hc => exact ⟨hc.frame, hc.stores.memKeptOutside⟩
  | faults _ hpart => exact ⟨(s.setFault_frame _).mono (List.nil_subset _) (by simpa using hpart), fun _ _ _ => rfl⟩

/-- Settles O46: the first clause is the frame at `VF`; a flag is written on completion only. -/
theorem flagWrittenBySixOnly : Obligations.FlagWrittenBySixOnly := by
  intro i s t h
  obtain ⟨⟨hreg, -⟩, -⟩ := instructionsWriteOnlyTheirTargets i s t h
  refine ⟨fun _ hVF => hreg VF hVF, fun hflag _ hrunning => ?_⟩
  have hresult := exec_result i s
  rw [h] at hresult
  cases hresult with
  | completes hc => exact hc.flag hflag
  | faults => cases hrunning

/-! ### The step: its fault, its `pc`, its end -/

/-- Settles O42: no instruction that completes latches a fault, and the others latch it and do nothing else. -/
theorem faultsArePrecise : Obligations.FaultsArePrecise := by
  intro s t f hf hstep ht
  have hresult := step_result s
  rw [hstep] at hresult
  cases hresult with
  | halted h => simp [hf] at h
  | unknown => rw [← ht]; rfl
  | instr _ _ ho =>
    cases ho with
    | completes hc =>
      have hnone : t.fault = none := hc.fault.trans hf
      simp [hnone] at ht
    | faults => rw [← ht]; rfl

/-- Settles O43: on completion the table's value is one clause of the result; a fault leaves `pc` advanced. -/
theorem pcFollowsTheTable : Obligations.PcFollowsTheTable := by
  intro s t i hf hi hstep
  have hresult := exec_result i (s.setPc (s.pc + 2))
  rw [← stepRunsDecodedInstruction s i hf hi, hstep] at hresult
  cases hresult with
  | completes hc => rw [if_pos (hc.fault.trans hf), hc.pc s rfl]
  | faults => rfl

/-- Settles O44: the one result that is no next state needs `SP` above 16. -/
theorem stepNeverStops : Obligations.StepNeverStops := by
  intro s hsp
  have hresult := step_result s
  generalize step s = o at hresult
  cases hresult with
  | halted | unknown => exact ⟨_, rfl⟩
  | instr _ _ ho =>
    cases ho with
    | completes | faults => exact ⟨_, rfl⟩
    | stops h => exact absurd h (Nat.not_lt.2 hsp)

/-! ### The invariant -/

theorem State.inv_iff (s : State) :
    s.inv = true ↔ Memory.wf s.mem = true ∧ s.sp.toNat ≤ 16 ∧ s.faultLegal = true := by
  simp only [State.inv, Bool.and_eq_true, decide_eq_true_eq, and_assoc]

theorem State.faultLegal_of_none {s : State} (h : s.fault = none) : s.faultLegal = true := by
  simp only [State.faultLegal, h]

/-- The state with a legal fault latched has a legal latched fault. -/
theorem State.inv_setFault {s : State} (h : s.inv = true) {f : CoreFault} (hf : f.legal = true) :
    (s.setFault (some f)).inv = true := by
  rw [State.inv_iff] at h ⊢
  obtain ⟨hmem, hsp, -⟩ := h
  exact ⟨hmem, hsp, hf⟩

theorem Completes.keeps_inv {i : Instr} {s t : State} (h : Completes i s t) (hf : s.fault = none)
    (hinv : s.inv = true) :
    t.inv = true := by
  rw [State.inv_iff] at hinv ⊢
  obtain ⟨hmem, hsp, -⟩ := hinv
  obtain ⟨bs, -, -, hstored⟩ := h.stores
  exact ⟨by rw [hstored]; exact Memory.wf_setBytes hmem _ bs, h.sp hsp, State.faultLegal_of_none (h.fault.trans hf)⟩

/-- Settles O51: by the results of the step; the faults it can latch are legal. -/
theorem stepKeepsInvariant : Obligations.StepKeepsInvariant := by
  intro s t hinv hstep
  have hadvanced : (s.setPc (s.pc + 2)).inv = true := hinv
  have hresult := step_result s
  rw [hstep] at hresult
  cases hresult with
  | halted => exact hinv
  | unknown _ hw => exact State.inv_setFault hadvanced (beq_iff_eq.2 hw)
  | instr hf _ ho =>
    cases ho with
    | completes hc => exact hc.keeps_inv hf hadvanced
    | faults hlegal => exact State.inv_setFault hadvanced hlegal

theorem State.inv_storeBytes {s : State} (h : s.inv = true) (a : Nat) (bs : List Byte) :
    (s.storeBytes a bs).inv = true := by
  rw [State.inv_iff] at h ⊢
  obtain ⟨hmem, hsp, hfault⟩ := h
  exact ⟨Memory.wf_setBytes hmem a bs, hsp, hfault⟩

/-- Every host operation has a reply and keeps the invariant. -/
theorem hostCall_keeps_inv (op : HostOp) {s : State} (hinv : s.inv = true) :
    ∃ r t, hostCall op s = .next (r, t) ∧ t.inv = true := by
  cases op with
  | loadProgram bytes =>
    refine ⟨(s.loadProgram bytes).1, (s.loadProgram bytes).2, rfl, ?_⟩
    simp only [State.loadProgram]
    split
    · exact hinv
    · exact State.inv_storeBytes hinv _ bytes
  | loadFont glyphs =>
    refine ⟨(s.loadFont glyphs).1, (s.loadFont glyphs).2, rfl, ?_⟩
    simp only [State.loadFont]
    split
    · exact State.inv_storeBytes hinv _ glyphs
    · exact hinv
  | setKey index pressed =>
    refine ⟨(s.setKey index pressed).1, (s.setKey index pressed).2, rfl, ?_⟩
    simp only [State.setKey]
    split <;> exact hinv
  | tickTimers | framebuffer | delayTimer | soundTimer => exact ⟨_, _, rfl, hinv⟩
  | step =>
    obtain ⟨-, hsp, -⟩ := s.inv_iff.1 hinv
    obtain ⟨t, ht⟩ := stepNeverStops s hsp
    exact ⟨t.stepReply, t, by simp only [hostCall, ht], stepKeepsInvariant s t hinv ht⟩

theorem runHost_cons {op : HostOp} {s t : State} {r : Reply} (h : hostCall op s = .next (r, t)) {ops : List HostOp}
    {rs : List Reply} {u : State} (hops : runHost ops t = .next (rs, u)) :
    runHost (op :: ops) s = .next (r :: rs, u) := by
  simp only [runHost, h, hops]

/-- Settles O52: by induction on the schedule, one operation at a time. -/
theorem everyScheduleKeepsInvariant : Obligations.EveryScheduleKeepsInvariant := by
  intro ops
  induction ops with
  | nil => exact fun s hinv => ⟨[], s, rfl, rfl, hinv⟩
  | cons op ops ih =>
    intro s hinv
    obtain ⟨r, t, hcall, ht⟩ := hostCall_keeps_inv op hinv
    obtain ⟨rs, u, hrun, hlen, hu⟩ := ih t ht
    exact ⟨r :: rs, u, runHost_cons hcall hrun, congrArg Nat.succ hlen, hu⟩

end Sys2Proof.Machine

/-! SUPPORT. No instruction reads `ST` or the key-wait state (spec 10_state.md sections 7 and 8). -/

namespace Sys2Proof.Machine

/-- The two outcomes are next states that agree in everything but `ST` and the key-wait state, or the same stop. -/
def AgreeButSoundAndWait : Outcome → Outcome → Prop
  | .next u, .next t => (u.setSt t.st).setKw t.kw = t
  | .fault f, .fault g => f = g
  | .refused f, .refused g => f = g
  | _, _ => False

/-- The state with another `ST` and another key-wait state. -/
def State.retimed (s : State) (a : Byte) (k : KeyWait) : State := (s.setSt a).setKw k

section
variable (s : State) (a : Byte) (k : KeyWait)

theorem pushAndGo_retimed (ret target : Word) :
    AgreeButSoundAndWait (pushAndGo ret target (s.retimed a k)) (pushAndGo ret target s) := by
  have hsp : (s.retimed a k).sp = s.sp := rfl
  simp only [pushAndGo, hsp]
  split
  · rfl
  · split <;> rfl

theorem popAndGo_retimed : AgreeButSoundAndWait (popAndGo (s.retimed a k)) (popAndGo s) := by
  have hsp : (s.retimed a k).sp = s.sp := rfl
  simp only [popAndGo, hsp]
  split
  · rfl
  · split <;> rfl

theorem skipIf_retimed (c : Bool) :
    AgreeButSoundAndWait (.next ((s.retimed a k).skipIf c)) (.next (s.skipIf c)) := by
  cases c <;> rfl

theorem keySkip_retimed (x : Reg) (test : Bool → Bool) :
    AgreeButSoundAndWait (keySkip x test (s.retimed a k)) (keySkip x test s) := by
  have hreg : (s.retimed a k).reg x = s.reg x := rfl
  simp only [keySkip, hreg]
  split
  · exact skipIf_retimed s a k _
  · rfl

theorem guardRange_retimed {count : Nat} {go' go : State} (hgo : AgreeButSoundAndWait (.next go') (.next go)) :
    AgreeButSoundAndWait (guardRange count (s.retimed a k) go') (guardRange count s go) := by
  have hrange : (s.retimed a k).rangeFault count = s.rangeFault count := rfl
  simp only [guardRange, hrange]
  split
  · rfl
  · exact hgo

theorem foldl_setReg_retimed (g : Nat → Byte) (ks : List Nat) :
    ks.foldl (fun u j => u.setReg (Fin.ofNat 16 j) (g j)) (s.retimed a k) =
      (ks.foldl (fun u j => u.setReg (Fin.ofNat 16 j) (g j)) s).retimed a k := by
  induction ks generalizing s with
  | nil => rfl
  | cons j ks ih => exact ih (s.setReg (Fin.ofNat 16 j) (g j))

theorem loadRegs_retimed (x : Reg) : (s.retimed a k).loadRegs x = (s.loadRegs x).retimed a k :=
  foldl_setReg_retimed s a k _ _

theorem exec_waitk_retimed (x : Reg) :
    AgreeButSoundAndWait (exec (.waitk x) (s.retimed a k)) (exec (.waitk x) s) := by
  have hkeys : (s.retimed a k).lowestPressed = s.lowestPressed := rfl
  cases h : s.lowestPressed with
  | none =>
    rw [exec_waitk_of_none h, exec_waitk_of_none (hkeys.trans h)]
    rfl
  | some j =>
    rw [exec_waitk_of_pressed h, exec_waitk_of_pressed (hkeys.trans h)]
    rfl

theorem exec_retimed (i : Instr) : AgreeButSoundAndWait (exec i (s.retimed a k)) (exec i s) := by
  cases i with
  | call nnn => exact pushAndGo_retimed s a k s.pc (zext16OfAddr nnn)
  | ret => exact popAndGo_retimed s a k
  | sei | snei | ser | sner => exact skipIf_retimed s a k _
  | skp x => exact keySkip_retimed s a k x (fun down => down)
  | sknp x => exact keySkip_retimed s a k x (fun down => !down)
  | waitk x => exact exec_waitk_retimed s a k x
  | drw | bcd | stm => exact guardRange_retimed s a k rfl
  | ldm x =>
    refine guardRange_retimed s a k ?_
    rw [loadRegs_retimed]
    rfl
  | cls | jp | jpv0 | ldi | addi | mov | or | and | xor | add | sub | shr | subn | shl | ldx | addx | font | rnd | lddt
  | stdt | stst => rfl

theorem step_retimed : AgreeButSoundAndWait (step (s.retimed a k)) (step s) := by
  cases hf : s.fault with
  | some f =>
    rw [step_of_halted hf, step_of_halted (s := s.retimed a k) hf]
    rfl
  | none =>
    cases hd : decode s.fetchWord with
    | unknown w =>
      rw [step_of_unknown hf hd, step_of_unknown (s := s.retimed a k) hf hd]
      rfl
    | instr i =>
      rw [stepRunsDecodedInstruction s i hf hd, stepRunsDecodedInstruction (s.retimed a k) i hf hd]
      exact exec_retimed (s.setPc (s.pc + 2)) a k i

end

/-- Settles O47: the two steps agree, so the second is a next state too. -/
theorem stepIgnoresSoundTimerAndKeyWait : Obligations.StepIgnoresSoundTimerAndKeyWait := by
  intro s t a k hstep
  have hagree := step_retimed s a k
  rw [hstep] at hagree
  cases hu : step (s.retimed a k) with
  | next u => exact ⟨u, hu, by rwa [hu] at hagree⟩
  | fault | refused => simp [hu, AgreeButSoundAndWait] at hagree

end Sys2Proof.Machine

/-! SUPPORT. The reset state and the host's other operations (spec 10_state.md section 15, 60_exceptions.md sections 6
and 7). -/

namespace Sys2Proof.Machine

theorem reset_byte (a : Nat) : State.reset.byte a = resetByte a := rfl

/-- Settles O48: nothing is listed in memory, so every address reads as the reset contents. -/
theorem resetMemoryAndEntryPoint : Obligations.ResetMemoryAndEntryPoint := by
  refine ⟨fun a _ ha => ?outside, fun k hk => ?font, rfl, fun s hpc => ?fetch⟩
  case outside =>
    have hfont : ¬ (0x50 ≤ a ∧ a < 0x50 + 80) := by omega
    rw [reset_byte, resetByte, if_neg hfont]
  case font =>
    have hfont : 0x50 ≤ 0x50 + k ∧ 0x50 + k < 0x50 + 80 := by omega
    rw [reset_byte, resetByte, if_pos hfont, Nat.add_sub_cancel_left, fontByte]
  case fetch => rw [fetchIsBigEndianAndWraps, hpc]; rfl

/-- Settles O49: each field is read off the reset state, the vectors element by element. -/
theorem resetDecidedValues : Obligations.ResetDecidedValues :=
  ⟨fun _ => Vector.getElem_replicate _, rfl, rfl, fun _ => Vector.getElem_replicate _, rfl, rfl,
    fun _ => Vector.getElem_replicate _, rfl, fun xx yy => blankScreen_pixel xx yy, rfl⟩

/-- Settles O50: an empty list is in canonical form, `SP` is 0, and no fault is latched. -/
theorem resetMeetsInvariant : Obligations.ResetMeetsInvariant :=
  State.reset.inv_iff.2 ⟨rfl, Nat.zero_le 16, rfl⟩

/-- Settles O56: by induction on the number of ticks; each takes 1 off what is left. -/
theorem ticksCountDownToZero : Obligations.TicksCountDownToZero := by
  intro n
  induction n with
  | zero => exact fun s => ⟨[], s, rfl, rfl, rfl, Frame.refl _ _ s⟩
  | succ n ih =>
    intro s
    obtain ⟨t, hcall, hdt, hst, hframe⟩ := tickTakesOneOffEachTimer s
    obtain ⟨rs, u, hrun, hdt', hst', hframe'⟩ := ih t
    refine ⟨_, u, runHost_cons hcall hrun, ?dt, ?st, (hframe.trans hframe').mono (by simp) (by simp)⟩
    case dt | st => omega

theorem State.setKeys_set_pressed (s : State) (k j : Key) (b : Bool) :
    (s.setKeys (s.key.set k.val b)).pressed j = if j = k then b else s.pressed j := by
  simp only [State.pressed, State.setKeys, Vector.getElem_set, Fin.ext_iff, eq_comm]

theorem hostCall_setKey (s : State) (k : Key) (b : Bool) :
    hostCall (.setKey k.val b) s = .next (.done, s.setKeys (s.key.set k.val b)) := by
  simp only [hostCall, State.setKey, k.isLt, dite_true]

/-- Settles O57: with a key's number one entry of the keypad is replaced; any other number is refused. -/
theorem setKeyRecordsLevel : Obligations.SetKeyRecordsLevel := by
  intro s index b
  refine ⟨fun k hk => ?key, fun hbad => ?refused⟩
  case key =>
    subst hk
    exact ⟨_, hostCall_setKey s k b, by rw [State.setKeys_set_pressed, if_pos rfl],
      fun j hj => by rw [State.setKeys_set_pressed, if_neg hj], s.setKeys_frame _⟩
  case refused => simp only [hostCall, State.setKey, dif_neg (Nat.not_lt.2 hbad)]

/-- Settles O58: each loader checks the length and then stores its bytes, or refuses. -/
theorem loadersWriteOnlyTheirBytes : Obligations.LoadersWriteOnlyTheirBytes := by
  intro s bytes hwf
  refine ⟨fun hlen => ?program, fun hlen => ?loadError, fun hlen => ?font, fun hlen => ?refused⟩
  case program =>
    have hend : 0x200 + bytes.length ≤ 4096 := by omega
    have hcall : hostCall (.loadProgram bytes) s = .next (.done, s.storeBytes 0x200 bytes) := by
      simp only [hostCall, State.loadProgram, if_neg (Nat.not_lt.2 hend)]
    exact ⟨_, hcall, fun _ hk => State.storeBytes_byte_at hwf hend hk, State.storeBytes_keptOutside hwf hend,
      s.storeBytes_frame _ _⟩
  case loadError =>
    have hover : 0x200 + bytes.length > 4096 := by omega
    simp only [hostCall, State.loadProgram, if_pos hover]
  case font =>
    have hend : 0x050 + bytes.length ≤ 4096 := by omega
    have hcall : hostCall (.loadFont bytes) s = .next (.done, s.storeBytes 0x050 bytes) := by
      simp only [hostCall, State.loadFont, if_pos hlen]
    have hkept := State.storeBytes_keptOutside hwf hend
    rw [hlen] at hkept
    exact ⟨_, hcall, fun _ hk => State.storeBytes_byte_at hwf hend hk, hkept, s.storeBytes_frame _ _⟩
  case refused => simp only [hostCall, State.loadFont, if_neg hlen]

end Sys2Proof.Machine
